-- ==== Sys2Proof/Word.lean ====
section
/-!
DEFINITION. The word types of the CORE numeric unit: operands and result registers are 32-bit unsigned integers, the
widening product is 64 bits (00_scope.md R7, R10, R11).
-/
namespace Sys2Proof

/-- An operand, a result register or a working register: a 32-bit unsigned integer (R7). -/
abbrev Word := BitVec 32

/-- A widening product, or an intermediate computed in 64 bits (R7, R147). -/
abbrev DWord := BitVec 64

/-- One byte of a request word laid out in bytes (only the decoder's byte form uses it: the unit has no bytes, R52). -/
abbrev Byte := BitVec 8

end Sys2Proof
end

