-- ==== Sys2Proof/Config.lean ====
section
/-!
DEFINITION. What is fixed for one machine (the parameters of 00_scope.md R8) and the free values: the contents the
unit's unspecified registers take at a RESET (10_state.md R37).
-/
namespace Sys2Proof

/-- `S.edge` takes one of the values NONE, ZERO or ONE (R34). -/
inductive Edge where
  | none
  | zero
  | one
  deriving DecidableEq, Repr, Inhabited

/-- The registers that R37 and R190 leave unspecified after RESET: the request latch, the micro-step counter and every
working register, each at its width of R20. -/
structure Unspecified where
  op : BitVec 3
  a : Word
  b : Word
  cnt : BitVec 6
  n : BitVec 6
  v : Word
  rem : Word
  quo : Word
  zdiv : Bool
  acc : Word
  ma : Word
  exp : BitVec 5
  y : Word
  y2 : Word
  xy2 : Word
  edge : Edge
  deriving DecidableEq, Repr, Inhabited

namespace Config

/-- How a backend computes the widening product or the leading-zero count (R8, R9); it changes no value. -/
inductive Backend where
  | soft
  | native
  deriving DecidableEq, Repr

/-- The shape of the parameter RSQRT_TABLE: 32 entries of 32 bits, indexed 0 to 31 (R8, R36, R51). -/
abbrev Table := Vector Word 32

/-- RSQRT_TABLE's decided default: the nearest integer to 65536/√(2^k) for each k, in the rows of R141. The machine takes
the table from its state (log 6), and `State.reset` holds this one. -/
def rsqrtTable : Table :=
  #v[65536, 46341, 32768, 23170, 16384, 11585, 8192, 5793,
     4096, 2896, 2048, 1448, 1024, 724, 512, 362,
     256, 181, 128, 91, 64, 45, 32, 23,
     16, 11, 8, 6, 4, 3, 2, 1]

/-- STEP_TIME, the clock cycles one micro-step takes: OPEN, and no rule depends on it (R8, R203; log 8). -/
opaque stepTime : Nat

/-- FREE VALUE: what the unspecified registers hold after the RESET event numbered `k` (R37, R190, U7; log 5). -/
opaque afterReset : Nat → Unspecified

end Config
end Sys2Proof
end

