-- ==== Sys2Proof/Syntax.lean ====
section
/-!
DEFINITION. The instructions of the unit: the requests of 30_encoding.md, one constructor per row of
spec/opcode_table.json, and the written form of a request (R77).
-/
namespace Sys2Proof

/-- The operations of R72; OP5, OP6 and OP7 are the reserved codes of R75. -/
inductive Op where
  | clz
  | divmod
  | mul32
  | mulw
  | rsqrt
  | op5
  | op6
  | op7
  deriving DecidableEq, Repr

/-- A request: an operation with its operands A and B (R70). An operand the operation ignores is still part of the
request, because it is latched like any other (R74). -/
inductive Instr where
  | clz (a b : Word)
  | divmod (a b : Word)
  | mul32 (a b : Word)
  | mulw (a b : Word)
  | rsqrt (a b : Word)
  | op5 (a b : Word)
  | op6 (a b : Word)
  | op7 (a b : Word)
  deriving DecidableEq, Repr

/-- The operation a request names. -/
def Instr.op : Instr → Op
  | .clz _ _ => .clz
  | .divmod _ _ => .divmod
  | .mul32 _ _ => .mul32
  | .mulw _ _ => .mulw
  | .rsqrt _ _ => .rsqrt
  | .op5 _ _ => .op5
  | .op6 _ _ => .op6
  | .op7 _ _ => .op7

/-- The operand A of a request. -/
def Instr.a : Instr → Word
  | .clz a _ | .divmod a _ | .mul32 a _ | .mulw a _ | .rsqrt a _ | .op5 a _ | .op6 a _ | .op7 a _ => a

/-- The operand B of a request. -/
def Instr.b : Instr → Word
  | .clz _ b | .divmod _ b | .mul32 _ b | .mulw _ b | .rsqrt _ b | .op5 _ b | .op6 _ b | .op7 _ b => b

/-- The request of an operation on two operands (R70, R71: the operands are taken exactly as given). -/
def Instr.make (op : Op) (a b : Word) : Instr :=
  match op with
  | .clz => .clz a b
  | .divmod => .divmod a b
  | .mul32 => .mul32 a b
  | .mulw => .mulw a b
  | .rsqrt => .rsqrt a b
  | .op5 => .op5 a b
  | .op6 => .op6 a b
  | .op7 => .op7 a b

/-- The mnemonic of an operation, as R72 and R77 write it. -/
def Op.mnemonic : Op → String
  | .clz => "CLZ"
  | .divmod => "DIVMOD"
  | .mul32 => "MUL32"
  | .mulw => "MULW"
  | .rsqrt => "RSQRT"
  | .op5 => "OP5"
  | .op6 => "OP6"
  | .op7 => "OP7"

/-- The number of operands a written request has: `MNEMONIC A` for CLZ and RSQRT, `MNEMONIC A, B` otherwise (R77). -/
def Op.writtenOperands : Op → Nat
  | .clz | .rsqrt => 1
  | .divmod | .mul32 | .mulw | .op5 | .op6 | .op7 => 2

/-- A written request (R77): the mnemonic and the operands as numbers, before any check. -/
structure Written where
  op : Op
  operands : List Nat
  deriving DecidableEq, Repr

end Sys2Proof
end

