-- ==== Sys2Proof/Machine/State.lean ====
section
/-!
DEFINITION. The state of the machine: the unit's record of 10_state.md R20, and beside it the host's side (what the host
does at the coming steps and what it has read). The reasons a step can stop, and the state after reset (R37, R190, R191).
-/
namespace Sys2Proof.Machine

/-- A host-visible register (R21, R22). -/
inductive HostReg where
  | r0
  | r1
  | status
  deriving DecidableEq, Repr

/-- What the host offers on the request inputs while `req_valid = 1`: three parallel inputs (R70, R194). -/
structure Request where
  op : BitVec 3
  a : Word
  b : Word
  deriving DecidableEq, Repr

/-- What the host and the platform do at one step: `rst` (R190), the request offered, if `req_valid = 1` (R194), and the
registers read, in order (R38, R200). -/
structure HostStep where
  rst : Bool
  req : Option Request
  reads : List HostReg
  deriving DecidableEq, Repr

/-- A step at which the host and the platform do nothing. -/
def HostStep.quiet : HostStep := { rst := false, req := none, reads := [] }

/-- A step at which the host offers a request and does nothing else. -/
def HostStep.offer (r : Request) : HostStep := { rst := false, req := some r, reads := [] }

/-- Why the machine stops with a fault. -/
inductive Fault where
  /-- Raised by `step` when the host reads R0 or R1 while it holds ⊥: "A model must treat a host read of a register that
  holds ⊥ as a fault, never as a value" (R24, R200, U6). Safe: the hardware returns bits that no claim can then use. -/
  | readNoValue (r : HostReg)
  deriving DecidableEq, Repr

/-- Why the machine gives an instruction no meaning. -/
inductive Refusal where
  /-- Raised by an arm of `exec` whose instruction has no meaning yet; no arm raises it. Safe: the machine stops. -/
  | notModelled (mnemonic : String)
  deriving DecidableEq, Repr

/-- The state. The first block is the unit's record of R20; `none` in `r0` and `r1` is the spec's own ⊥ (R24). The second
block is not of that record: the parameter RSQRT_TABLE, which no event writes (R8, R36; log 6), the host's coming steps
(log 1), what it has read (log 2), and the counter of the free values (log 5). -/
structure State where
  r0 : Option Word
  r1 : Option Word
  busy : Bool
  done : Bool
  illop : Bool
  op : BitVec 3
  a : Word
  b : Word
  cnt : BitVec 6
  n : BitVec 6
  v : Word
  rem : Word
  quo : Word
  zdiv : Bool
  acc : Word
  ma : Word
  exp : BitVec 5
  y : Word
  y2 : Word
  xy2 : Word
  edge : Edge
  table : Config.Table
  inputs : List HostStep
  observed : List (HostReg × Word)
  freeCount : Nat
  deriving DecidableEq, Repr

/-- The state at power-on, which is the state after RESET (R191): STATUS is 0 and R0 and R1 hold ⊥ (R37, R190). The
registers R37 leaves unspecified are named 0 (log 4, DESIGN CHOICE: R37 allows any value), the parameter RSQRT_TABLE is at its
decided default (R8, R141; `State.withTable` gives a unit with another), the host has done nothing (logs 1 and 2) and the
free-value counter stands at 0 (log 5). -/
def State.reset : State where
  r0 := none
  r1 := none
  busy := false
  done := false
  illop := false
  op := 0
  a := 0
  b := 0
  cnt := 0
  n := 0
  v := 0
  rem := 0
  quo := 0
  zdiv := false
  acc := 0
  ma := 0
  exp := 0
  y := 0
  y2 := 0
  xy2 := 0
  edge := .none
  table := Config.rsqrtTable
  inputs := []
  observed := []
  freeCount := 0

end Sys2Proof.Machine
end

