-- ==== Sys2Proof/Machine/Flags.lean ====
section
/-!
DEFINITION. STATUS: how its fields change at the unit's events, and the word a host reads (10_state.md R22 to R26).
STATUS is the unit's only flag register (R27).
-/
namespace Sys2Proof.Machine

/-- STATUS as the host reads it: BUSY is bit 0, DONE bit 1, ILLOP bit 2, and bits 31 to 3 read as zero (R22). -/
def State.statusWord (s : State) : Word :=
  0#29 ++ BitVec.ofBool s.illop ++ BitVec.ofBool s.done ++ BitVec.ofBool s.busy

/-- The output `req_ready` equals NOT STATUS.BUSY (R194). -/
def State.reqReady (s : State) : Bool := !s.busy

/-- STATUS at an acceptance: BUSY <- 1, DONE <- 0, ILLOP <- 0 (R195). -/
def State.statusAccepted (s : State) : State := { s with busy := true, done := false, illop := false }

/-- STATUS at a completion: BUSY <- 0, DONE <- 1, and ILLOP says whether the op code is reserved (R197). -/
def State.statusCompleted (reserved : Bool) (s : State) : State :=
  { s with busy := false, done := true, illop := reserved }

/-- STATUS at a RESET: every field 0 (R190). -/
def State.statusReset (s : State) : State := { s with busy := false, done := false, illop := false }

end Sys2Proof.Machine
end

