-- ==== Sys2Proof/WellFormed.lean ====
section
/-!
DEFINITION. Which terms are well formed. Every request is (30_encoding.md R73: no value of A or B makes a request
illegal); a written request (R77) is checked for its number of operands and for each operand's range.
-/
namespace Sys2Proof

/-- "No value of A or B makes a request illegal" (R73), and the reserved codes are accepted like any other (R75). -/
def Instr.wellFormed : Instr → Bool
  | .clz _ _ | .divmod _ _ | .mul32 _ _ | .mulw _ _ | .rsqrt _ _ | .op5 _ _ | .op6 _ _ | .op7 _ _ => true

/-- A written request has as many operands as its mnemonic takes (R77). -/
def Written.arityOk (w : Written) : Bool := w.operands.length == w.op.writtenOperands

/-- Each written operand is a 32-bit unsigned value (R77). -/
def Written.rangesOk (w : Written) : Bool := w.operands.all (· < 2 ^ 32)

/-- A written request the assembler takes (R77). -/
def Written.wellFormed (w : Written) : Bool := w.arityOk && w.rangesOk

end Sys2Proof
end

