-- ==== Sys2Proof/Decode.lean ====
section
/-!
DEFINITION. The request word REQ = OP, B, A from high to low (30_encoding.md R70), the operation codes (R72), decoding (R73), the
encoder, and the assembler of written requests (R77).
-/
namespace Sys2Proof

/-- The operation code of R72. -/
def Op.code : Op → BitVec 3
  | .clz => 0b000#3
  | .divmod => 0b001#3
  | .mul32 => 0b010#3
  | .mulw => 0b011#3
  | .rsqrt => 0b100#3
  | .op5 => 0b101#3
  | .op6 => 0b110#3
  | .op7 => 0b111#3

/-- The operation a 3-bit code selects: each of the 8 values selects exactly one row of R72 (R73). -/
def Op.ofCode (c : BitVec 3) : Op :=
  match c.toNat with
  | 0 => .clz
  | 1 => .divmod
  | 2 => .mul32
  | 3 => .mulw
  | 4 => .rsqrt
  | 5 => .op5
  | 6 => .op6
  | _ => .op7

/-- The reserved codes are 5, 6 and 7 (R75). -/
def Op.reserved : Op → Bool
  | .op5 | .op6 | .op7 => true
  | .clz | .divmod | .mul32 | .mulw | .rsqrt => false

/-- REQ[66:64] is OP (R70). -/
def reqOp (w : BitVec 67) : BitVec 3 := w.extractLsb' 64 3

/-- REQ[63:32] is B (R70). -/
def reqB (w : BitVec 67) : Word := w.extractLsb' 32 32

/-- REQ[31:0] is A (R70). -/
def reqA (w : BitVec 67) : Word := w.extractLsb' 0 32

/-- The request a request word stands for; total, by OP alone (R73). -/
def decode (w : BitVec 67) : Instr := Instr.make (Op.ofCode (reqOp w)) (reqA w) (reqB w)

/-- Why a string of bytes is no request. -/
inductive Reject where
  /-- Fewer than nine bytes: they cannot hold the 67 bits of a request (R70). -/
  | tooShort
  /-- A bit above bit 66 is set: a request has 67 bits (R70). -/
  | bitAboveRequest
  deriving DecidableEq, Repr

/-- The number whose little-endian bytes are `bs`. DESIGN CHOICE (log 10): the unit has no byte order (R52); the least
significant byte stands first, as spec/opcode_table.json numbers the bits. -/
def natOfBytes : List Byte → Nat
  | [] => 0
  | x :: xs => x.toNat + 256 * natOfBytes xs

/-- The first `n` little-endian bytes of a number (log 10). -/
def bytesOfNat : Nat → Nat → List Byte
  | 0, _ => []
  | n + 1, w => BitVec.ofNat 8 w :: bytesOfNat n (w / 256)

/-- Decoding any string of bytes, read as one number (log 10): rejected by name where it cannot hold 67 bits or where a
bit above bit 66 is set. -/
def decodeBytes (bs : List Byte) : Except Reject Instr :=
  if bs.length < 9 then .error .tooShort
  else if 2 ^ 67 ≤ natOfBytes bs then .error .bitAboveRequest
  else .ok (decode (BitVec.ofNat 67 (natOfBytes bs)))

/-- The instruction read from the bits `w` of a table row, numbered as spec/opcode_table.json numbers them; bits from
`nbits` up are zero. -/
def decodeTableWord (nbits w : Nat) : Option Instr :=
  match decodeBytes (bytesOfNat (max 9 ((nbits + 7) / 8)) (w % 2 ^ nbits)) with
  | .ok i => some i
  | .error _ => none

/-- The request word of a request: the concatenation of OP, B and A (R70). -/
def encode (i : Instr) : BitVec 67 := i.op.code ++ i.b ++ i.a

/-- One row of spec/opcode_table.json: a word is of the row exactly when its masked bits are the row's match. -/
structure OpcodeRow where
  op : Op
  mask : BitVec 67
  pattern : BitVec 67
  deriving DecidableEq, Repr

/-- The word is of the row (R73). -/
def OpcodeRow.selects (r : OpcodeRow) (w : BitVec 67) : Bool := w &&& r.mask == r.pattern

/-- The eight rows of spec/opcode_table.json, `mask` and `match` as the table writes them (R73). -/
def opcodeRows : List OpcodeRow :=
  [⟨.clz, 0x70000000000000000, 0x0⟩, ⟨.divmod, 0x70000000000000000, 0x10000000000000000⟩,
   ⟨.mul32, 0x70000000000000000, 0x20000000000000000⟩, ⟨.mulw, 0x70000000000000000, 0x30000000000000000⟩,
   ⟨.rsqrt, 0x70000000000000000, 0x40000000000000000⟩, ⟨.op5, 0x70000000000000000, 0x50000000000000000⟩,
   ⟨.op6, 0x70000000000000000, 0x60000000000000000⟩, ⟨.op7, 0x70000000000000000, 0x70000000000000000⟩]

/-- The request a well-formed written request stands for; the omitted B of CLZ and RSQRT is 0 (R77). -/
def Written.assemble (w : Written) : Option Instr :=
  if w.wellFormed then
    some (Instr.make w.op (BitVec.ofNat 32 (w.operands.getD 0 0)) (BitVec.ofNat 32 (w.operands.getD 1 0)))
  else none

end Sys2Proof
end

