-- ==== Sys2Proof/Machine/Operands.lean ====
section
/-!
DEFINITION. The operands: the request word on the request inputs, latching (30_encoding.md R71, R74; 10_state.md R28), the single bits the
iterative datapaths read, and the slices of a 64-bit product.
-/
namespace Sys2Proof.Machine

/-- The name REQ of what stands on the three request inputs: OP, B and A concatenated (R70). -/
def Request.word (r : Request) : BitVec 67 := r.op ++ r.b ++ r.a

/-- The request inputs that carry a request word. -/
def Request.ofWord (w : BitVec 67) : Request := { op := reqOp w, a := reqA w, b := reqB w }

/-- The request inputs that offer an instruction. -/
def Request.ofInstr (i : Instr) : Request := { op := i.op.code, a := i.a, b := i.b }

/-- The request latch takes OP, A and B exactly as given, the operands an operation ignores too (R28, R71, R74). -/
def State.latch (op : BitVec 3) (a b : Word) (s : State) : State := { s with op := op, a := a, b := b }

/-- The dividend bit that DIVMOD's micro-step `k` injects: bit 31 − k (R112). -/
def State.dividendBit (s : State) (k : Nat) : Bool := s.a.getLsbD (31 - k)

/-- The multiplier bit that MUL32's micro-step `k` tests: bit k (R121). -/
def State.multiplierBit (s : State) (k : Nat) : Bool := s.b.getLsbD k

/-- `p[31:0]` of a 64-bit value. -/
def lowWord (p : DWord) : Word := p.extractLsb' 0 32

/-- `p[63:32]` of a 64-bit value. -/
def highWord (p : DWord) : Word := p.extractLsb' 32 32

/-- `p[47:16]` of a 64-bit value: the product after a right shift by 16 (R147, R148). -/
def sliceFrom16 (p : DWord) : Word := p.extractLsb' 16 32

/-- `p[48:17]` of a 64-bit value: the product after a right shift by 17 (R148). -/
def sliceFrom17 (p : DWord) : Word := p.extractLsb' 17 32

end Sys2Proof.Machine
end

