-- ==== Sys2Proof/Machine/Ops.lean ====
section
/-!
DEFINITION. The named operations over the registers that no single instruction owns: host reads (10_state.md R38), the host's side
of a step, RESET (70_reset_and_hazards.md R190), and writing the result registers (R21). The unit has no memory (20_memory.md R50) and takes no
exception (60_exceptions.md R170), so there is no memory operation and no exception entry; RESET is the one event that interrupts a request.
-/
namespace Sys2Proof.Machine

/-- The register numbers of R56: R0 is 0, R1 is 1 and STATUS is 2. -/
def HostReg.number : HostReg → Nat
  | .r0 => 0
  | .r1 => 1
  | .status => 2

/-- What a host read of a register finds; `none` is ⊥. A read of STATUS always finds a value (R200). -/
def State.readReg (s : State) : HostReg → Option Word
  | .r0 => s.r0
  | .r1 => s.r1
  | .status => some s.statusWord

/-- The first of the registers read that holds ⊥, if one does (R24, R200). -/
def State.noValueRead (s : State) (rs : List HostReg) : Option HostReg :=
  rs.find? fun r => (s.readReg r).isNone

/-- The values the host gets for the registers it reads, in order (R200). -/
def State.readValues (s : State) (rs : List HostReg) : List (HostReg × Word) :=
  rs.filterMap fun r => (s.readReg r).map fun x => (r, x)

/-- What the host and the platform do at the coming step; nothing, once the list of inputs is used up (log 1). -/
def State.ports (s : State) : HostStep := s.inputs.headD HostStep.quiet

/-- The host's side of a step: its coming step is taken off the list, and the values it reads, which are those before
the unit's event (R200), are kept (log 2). No register of the unit changes (R38). -/
def State.takeInputs (s : State) : State :=
  { s with inputs := s.inputs.tail, observed := s.observed ++ s.readValues s.ports.reads }

/-- The host puts one more step before those it has in mind. -/
def State.present (h : HostStep) (s : State) : State := { s with inputs := h :: s.inputs }

/-- The same state of a unit built with another RSQRT_TABLE (R8, R141). -/
def State.withTable (tbl : Config.Table) (s : State) : State := { s with table := tbl }

/-- R0 and R1 hold no value (R24). -/
def State.clearResults (s : State) : State := { s with r0 := none, r1 := none }

/-- The unit writes both result registers (R21). -/
def State.writeResults (x0 x1 : Word) (s : State) : State := { s with r0 := some x0, r1 := some x1 }

/-- The registers R190 leaves unspecified take the values `u`. -/
def State.setUnspecified (u : Unspecified) (s : State) : State :=
  { s with
    op := u.op, a := u.a, b := u.b, cnt := u.cnt, n := u.n, v := u.v, rem := u.rem, quo := u.quo, zdiv := u.zdiv
    acc := u.acc, ma := u.ma, exp := u.exp, y := u.y, y2 := u.y2, xy2 := u.xy2, edge := u.edge }

/-- RESET (R190): STATUS becomes 0, R0 and R1 hold ⊥, and the latch, S.cnt and every working register become
unspecified: free values, a new set at every RESET (log 5). -/
def State.applyReset (s : State) : State :=
  { (s.statusReset.clearResults.setUnspecified (Config.afterReset s.freeCount)) with freeCount := s.freeCount + 1 }

end Sys2Proof.Machine
end

