-- ==== Sys2Proof/Machine/Clz.lean ====
section
/-!
DEFINITION. CLZ (40_clz.md): the function of R100, and the datapath of R101 and R102, which RSQRT shares (R105).
-/
namespace Sys2Proof.Machine

/-- The number of leading zero bits: 32 for 0, and 31 less the index of the highest set bit otherwise (R100). This is
also the CLZ_BACKEND = NATIVE form (R9, R103). -/
def clz32 (x : Word) : Nat := if x = 0 then 32 else 31 - x.toNat.log2

/-- Acceptance of CLZ (R101, R195): `S.n <- 32 ; S.v <- a`. -/
def State.clzLoad (s : State) : State := { s with n := 32, v := s.a }

/-- The shift of CLZ's micro-step `k`: 16, 8, 4, 2, 1 (R102). -/
def clzShift (k : Nat) : Nat := 16 >>> k

/-- Micro-step `k` of CLZ (R102): if the upper part of the window is not zero, narrow to it. -/
def State.clzStep (k : Nat) (s : State) : State :=
  let c := clzShift k
  let t := s.v >>> c
  if t ≠ 0 then { s with n := s.n - BitVec.ofNat 6 c, v := t } else s

/-- The count at completion, `S.n − S.v` (R101, R103). -/
def State.clzCount (s : State) : Word := s.n.setWidth 32 - s.v

/-- The portable form of the count, the five halvings of R102 on a pair (n, v): CLZ_BACKEND = SOFT (R9). -/
def clzSoft (x : Word) : Word :=
  let halve := fun (nv : Word × Word) (c : Nat) =>
    if nv.2 >>> c ≠ 0 then (nv.1 - BitVec.ofNat 32 c, nv.2 >>> c) else nv
  let last := [16, 8, 4, 2, 1].foldl halve (32, x)
  last.1 - last.2

/-- The count under either backend (R9, R157). -/
def clzBy : Config.Backend → Word → Word
  | .soft, x => clzSoft x
  | .native, x => BitVec.ofNat 32 (clz32 x)

end Sys2Proof.Machine
end

