-- ==== Sys2Proof/Machine/Divmod.lean ====
section
/-!
DEFINITION. DIVMOD (41_divmod.md): the function of R110, and the restoring divider of R111 and R112.
-/
namespace Sys2Proof.Machine

/-- (quotient, remainder), and (0, 0) for a zero divisor (R110, R115). -/
def divmod32 (a b : Word) : Word × Word :=
  if b = 0 then (0, 0) else (BitVec.ofNat 32 (a.toNat / b.toNat), BitVec.ofNat 32 (a.toNat % b.toNat))

/-- Acceptance of DIVMOD (R111, R195): `S.rem <- 0 ; S.quo <- 0 ; S.zdiv <- (b = 0)`. -/
def State.divLoad (s : State) : State := { s with rem := 0, quo := 0, zdiv := s.b == 0 }

/-- The shifted remainder of micro-step `k`, `(S.rem << 1) | S.a[31 − k]`, exact in 33 bits (R112). -/
def State.divShifted (k : Nat) (s : State) : BitVec 33 := s.rem ++ BitVec.ofBool (s.dividendBit k)

/-- Micro-step `k` of DIVMOD (R112): subtract the divisor if the shifted remainder is large enough, and set the
quotient bit. -/
def State.divStep (k : Nat) (s : State) : State :=
  let r := s.divShifted k
  if s.b.setWidth 33 ≤ r then
    { s with rem := (r - s.b.setWidth 33).setWidth 32, quo := s.quo ||| (1#32 <<< (31 - k)) }
  else
    { s with rem := r.setWidth 32 }

/-- Completion of DIVMOD (R111): the quotient and the remainder, or (0, 0) when the latched divisor was zero. -/
def State.divResults (s : State) : Word × Word := if s.zdiv then (0, 0) else (s.quo, s.rem)

end Sys2Proof.Machine
end

