-- ==== Sys2Proof/Machine/Multiply.lean ====
section
/-!
DEFINITION. MUL32 and MULW (42_multiply.md): the widening product of R124, and the shift-and-add datapath of R120 and R121.
-/
namespace Sys2Proof.Machine

/-- The widening product, exact in 64 bits (R124): the canonical form, MUL_BACKEND = NATIVE (R125). -/
def wmul (a b : Word) : DWord := a.setWidth 64 * b.setWidth 64

/-- Acceptance of MUL32 (R120, R195): `S.acc <- 0 ; S.ma <- a`. -/
def State.mulLoad (s : State) : State := { s with acc := 0, ma := s.a }

/-- Micro-step `k` of MUL32 (R121): add the shifted multiplicand if bit k of the multiplier is 1, then shift it. -/
def State.mulStep (k : Nat) (s : State) : State :=
  { s with acc := if s.multiplierBit k then s.acc + s.ma else s.acc, ma := s.ma <<< 1 }

/-- Completion of MUL32 (R120). -/
def State.mulResults (s : State) : Word × Word := (s.acc, 0)

/-- Completion of MULW (R123): the low and the high word of the product, computed from the latch. -/
def State.mulwResults (s : State) : Word × Word := (lowWord (wmul s.a s.b), highWord (wmul s.a s.b))

/-- The portable form of the widening product, shift and add over the 32 bits of b: MUL_BACKEND = SOFT (R9, R125). -/
def wmulSoft (a b : Word) : DWord :=
  (List.range 32).foldl (fun acc k => if b.getLsbD k then acc + (a.setWidth 64 <<< k) else acc) 0

/-- The product under either backend (R9, R125, R157). -/
def wmulBy : Config.Backend → Word → Word → DWord
  | .soft, a, b => wmulSoft a b
  | .native, a, b => wmul a b

end Sys2Proof.Machine
end

