-- ==== Sys2Proof/Machine/Rsqrt.lean ====
section
/-!
DEFINITION. RSQRT (43_rsqrt.md): the function of R144, over any table, and the micro-steps and completion of R143, R150 and R151.
-/
namespace Sys2Proof.Machine

/-- `(exp < 31) ? TABLE[exp+1] : 0` (R144, R147). -/
def tableNext (tbl : Config.Table) (exp : BitVec 5) : Word :=
  if h : exp.toNat < 31 then tbl.get ⟨exp.toNat + 1, by omega⟩ else 0

/-- `2^exp` as a word. -/
def powerOfTwo (exp : BitVec 5) : Word := 1#32 <<< exp

/-- The fractional position of x in [2^exp, 2^(exp+1)), as a 16-bit fraction computed in 64 bits (R147). -/
def rsqrtFrac (x : Word) (exp : BitVec 5) : Word :=
  (((x - powerOfTwo exp).setWidth 64 <<< 16) >>> exp).setWidth 32

/-- The estimate after the interpolation, which is skipped when x is a power of two (R144, R147). -/
def rsqrtInterp (tbl : Config.Table) (x : Word) (exp : BitVec 5) (y : Word) : Word :=
  if powerOfTwo exp < x then y - sliceFrom16 (wmul (y - tableNext tbl exp) (rsqrtFrac x exp)) else y

/-- The square of the estimate, `wmul(y, y).lo` (R144, R148). -/
def nrSquare (y : Word) : Word := lowWord (wmul y y)

/-- `wmul(x, y2)[47:16]` (R144, R148). -/
def nrScale (x y2 : Word) : Word := sliceFrom16 (wmul x y2)

/-- `(3·2^16 − xy2) mod 2^32` (R144, R148). -/
def nrTerm (xy2 : Word) : Word := 0x30000 - xy2

/-- `wmul(y, (3·2^16 − xy2) mod 2^32)[48:17]` (R144, R148). -/
def nrUpdate (y xy2 : Word) : Word := sliceFrom17 (wmul y (nrTerm xy2))

/-- One Newton-Raphson iteration (R148). -/
def nrIterate (x y : Word) : Word := nrUpdate y (nrScale x (nrSquare y))

/-- The index of the highest set bit, `31 − clz32(x)` (R144). -/
def highestBit (x : Word) : BitVec 5 := BitVec.ofNat 5 (31 - clz32 x)

/-- The estimate after the seed and the interpolation (R144). -/
def rsqrtSeeded (tbl : Config.Table) (x : Word) : Word :=
  rsqrtInterp tbl x (highestBit x) (tbl.get (highestBit x).toFin)

/-- The function `rsqrt32` of R144, whole, over a table. -/
def rsqrt32 (tbl : Config.Table) (x : Word) : Word :=
  if x = 0 then 0xFFFFFFFF
  else if x = 1 then 0x00010000
  else nrIterate x (nrIterate x (rsqrtSeeded tbl x))

/-- Acceptance of RSQRT (R143, R195). -/
def State.rsqrtLoad (s : State) : State :=
  { s with n := 32, v := s.a, exp := 0, y := 0, y2 := 0, xy2 := 0, edge := .none }

/-- Micro-step 5, SEED (R150): the edge cases 0 and 1, or the exponent and the seed. -/
def State.rsqrtSeed (tbl : Config.Table) (s : State) : State :=
  if s.a = 0 then { s with edge := .zero }
  else if s.a = 1 then { s with edge := .one }
  else
    let e : BitVec 5 := (31 - s.clzCount).setWidth 5
    { s with exp := e, y := tbl.get e.toFin }

/-- Micro-steps 6 to 12 change no register when an edge case applies (R150). -/
def State.unlessEdge (s t : State) : State := if s.edge = .none then t else s

/-- Micro-step `k` of RSQRT (R150). -/
def State.rsqrtStep (tbl : Config.Table) (k : Nat) (s : State) : State :=
  match k with
  | 0 | 1 | 2 | 3 | 4 => s.clzStep k
  | 5 => s.rsqrtSeed tbl
  | 6 => s.unlessEdge { s with y := rsqrtInterp tbl s.a s.exp s.y }
  | 7 | 10 => s.unlessEdge { s with y2 := nrSquare s.y }
  | 8 | 11 => s.unlessEdge { s with xy2 := nrScale s.a s.y2 }
  | 9 | 12 => s.unlessEdge { s with y := nrUpdate s.y s.xy2 }
  | _ => s

/-- Completion of RSQRT (R151). -/
def State.rsqrtResults (s : State) : Word × Word :=
  match s.edge with
  | .zero => (0xFFFFFFFF, 0)
  | .one => (0x00010000, 0)
  | .none => (s.y, 0)

end Sys2Proof.Machine
end

