-- ==== Sys2Proof/Machine/Microstep.lean ====
section
/-!
DEFINITION. The events of a request (70_reset_and_hazards.md): its latency (R199), ACCEPT (R195), MICROSTEP (R196) and COMPLETE (R197); and the
results that the functions of 40_clz.md to 43_rsqrt.md give it (R21).
-/
namespace Sys2Proof.Machine

/-- LAT, the number of micro-steps from acceptance to completion, by operation alone (R199). -/
def lat : Op → Nat
  | .clz => 5
  | .divmod => 32
  | .mul32 => 32
  | .mulw => 1
  | .rsqrt => 13
  | .op5 | .op6 | .op7 => 1

/-- The clock cycles a request occupies the unit after its acceptance: LAT(op) · STEP_TIME (R203; log 8). -/
def requestCycles (op : Op) : Nat := lat op * Config.stepTime

/-- The results of a request by the pure functions of its operation, on a unit with the table `tbl` (R21, R57). -/
def requestResult (tbl : Config.Table) (op : Op) (a b : Word) : Word × Word :=
  match op with
  | .clz => (BitVec.ofNat 32 (clz32 a), 0)
  | .divmod => divmod32 a b
  | .mul32 => (a * b, 0)
  | .mulw => (lowWord (wmul a b), highWord (wmul a b))
  | .rsqrt => (rsqrt32 tbl a, 0)
  | .op5 | .op6 | .op7 => (0, 0)

/-- What every ACCEPT does before the part that depends on the operation (R195): the latch, S.cnt, STATUS, and ⊥ in R0
and R1. -/
def State.accept (op : Op) (a b : Word) (s : State) : State :=
  { (s.latch op.code a b).statusAccepted.clearResults with cnt := 0 }

/-- The register changes of micro-step `S.cnt` of the latched operation (R196), RSQRT's under the unit's own table (R51). -/
def State.datapath (s : State) : State :=
  match Op.ofCode s.op with
  | .clz => s.clzStep s.cnt.toNat
  | .divmod => s.divStep s.cnt.toNat
  | .mul32 => s.mulStep s.cnt.toNat
  | .mulw => s
  | .rsqrt => s.rsqrtStep s.table s.cnt.toNat
  | .op5 | .op6 | .op7 => s

/-- What the completion rule of the latched operation writes to R0 and R1 (R197). -/
def State.results (s : State) : Word × Word :=
  match Op.ofCode s.op with
  | .clz => (s.clzCount, 0)
  | .divmod => s.divResults
  | .mul32 => s.mulResults
  | .mulw => s.mulwResults
  | .rsqrt => s.rsqrtResults
  | .op5 | .op6 | .op7 => (0, 0)

/-- COMPLETE (R197). -/
def State.complete (s : State) : State :=
  (s.writeResults s.results.1 s.results.2).statusCompleted (Op.ofCode s.op).reserved

/-- `S.cnt <- k + 1` (R196). -/
def State.countStep (s : State) : State := { s with cnt := s.cnt + 1 }

/-- Whether the micro-steps done so far are LAT(S.op) (R196, R199). -/
def State.atLat (s : State) : Bool := s.cnt.toNat == lat (Op.ofCode s.op)

/-- MICROSTEP (R196): the datapath, the count, and COMPLETE in the same step when the count reaches LAT(S.op). -/
def State.microstep (s : State) : State :=
  let t := s.datapath.countStep
  if t.atLat then t.complete else t

/-- The unit's event at a step without RESET at which a request stands at the request inputs (R194): a busy unit makes a
micro-step of the request in its latch and the offered request waits; an idle one accepts it, and `accepted` is what that
gives (log 12). -/
def State.whenOffered (s accepted : State) : Host.Outcome State Fault Refusal :=
  .next (if s.busy then s.microstep else accepted)

end Sys2Proof.Machine
end

