-- ==== Sys2Proof/Machine/Meanings.lean ====
section
/-!
DEFINITION. The meaning of each instruction, one definition each: what the unit does at a step without RESET at which the request
stands at its request inputs or is in flight (70_reset_and_hazards.md R194 to R197; log 12).
-/
namespace Sys2Proof.Machine

/-- CLZ (R101): acceptance loads `S.n` and `S.v`. -/
def execClz (a b : Word) (s : State) : Host.Outcome State Fault Refusal :=
  s.whenOffered (s.accept .clz a b).clzLoad

/-- DIVMOD (R111): acceptance loads `S.rem`, `S.quo` and `S.zdiv`. -/
def execDivmod (a b : Word) (s : State) : Host.Outcome State Fault Refusal :=
  s.whenOffered (s.accept .divmod a b).divLoad

/-- MUL32 (R120): acceptance loads `S.acc` and `S.ma`. -/
def execMul32 (a b : Word) (s : State) : Host.Outcome State Fault Refusal :=
  s.whenOffered (s.accept .mul32 a b).mulLoad

/-- MULW (R123): acceptance sets no working register. -/
def execMulw (a b : Word) (s : State) : Host.Outcome State Fault Refusal :=
  s.whenOffered (s.accept .mulw a b)

/-- RSQRT (R143): acceptance loads the CLZ and the RSQRT working registers. -/
def execRsqrt (a b : Word) (s : State) : Host.Outcome State Fault Refusal :=
  s.whenOffered (s.accept .rsqrt a b).rsqrtLoad

/-- The reserved code 5 (R75): accepted like any other. -/
def execOp5 (a b : Word) (s : State) : Host.Outcome State Fault Refusal :=
  s.whenOffered (s.accept .op5 a b)

/-- The reserved code 6 (R75): accepted like any other. -/
def execOp6 (a b : Word) (s : State) : Host.Outcome State Fault Refusal :=
  s.whenOffered (s.accept .op6 a b)

/-- The reserved code 7 (R75): accepted like any other. -/
def execOp7 (a b : Word) (s : State) : Host.Outcome State Fault Refusal :=
  s.whenOffered (s.accept .op7 a b)

end Sys2Proof.Machine
end

