-- ==== Sys2Proof/Machine/Dispatch.lean ====
section
/-!
DEFINITION. One arm per instruction.
-/
namespace Sys2Proof.Machine

def exec (i : Instr) (s : State) : Host.Outcome State Fault Refusal :=
  match i with
  | .clz a b => Sys2Proof.Machine.execClz a b s
  | .divmod a b => Sys2Proof.Machine.execDivmod a b s
  | .mul32 a b => Sys2Proof.Machine.execMul32 a b s
  | .mulw a b => Sys2Proof.Machine.execMulw a b s
  | .rsqrt a b => Sys2Proof.Machine.execRsqrt a b s
  | .op5 a b => Sys2Proof.Machine.execOp5 a b s
  | .op6 a b => Sys2Proof.Machine.execOp6 a b s
  | .op7 a b => Sys2Proof.Machine.execOp7 a b s

end Sys2Proof.Machine
end

