-- ==== Sys2Proof/Machine/Fetch.lean ====
section
/-!
DEFINITION. Which request a step works on: the one in the latch of a busy unit, or the one the host offers to an idle unit
(70_reset_and_hazards.md R194, R196).
-/
namespace Sys2Proof.Machine

/-- The request the coming step works on, decoded from its request word: a busy unit works on its latch (R196), an idle
unit on what is offered, if anything is (R194). -/
def State.currentInstr (s : State) : Option Instr :=
  if s.busy then some (decode (Request.word { op := s.op, a := s.a, b := s.b }))
  else s.ports.req.map fun r => decode r.word

/-- The state in which an idle unit is offered the request word `w`, without RESET and without a read, at the coming
step (log 13). -/
def State.offerWord (w : BitVec 67) (s : State) : State :=
  { s with busy := false, inputs := HostStep.offer (Request.ofWord w) :: s.inputs.tail }

end Sys2Proof.Machine
end

