-- ==== Sys2Proof/Machine/Step.lean ====
section
/-!
DEFINITION. One step of the machine (70_reset_and_hazards.md R193, R200, R174).
-/
namespace Sys2Proof.Machine

/-- One step. The host's reads come first and see the state before the unit's event (R200); one that finds ⊥ faults
(R24). RESET wins over every other event (R174, R190). Otherwise the unit works on its current request, and an idle unit to
which nothing is offered holds its state (R182). -/
def step (s : State) : Host.Outcome State Fault Refusal :=
  match s.noValueRead s.ports.reads with
  | some r => .fault (.readNoValue r)
  | none =>
    if s.ports.rst then .next s.takeInputs.applyReset
    else
      match s.currentInstr with
      | some i => exec i s.takeInputs
      | none => .next s.takeInputs

/-- `s` with the request word `w` offered to an idle unit at the very next step (log 13). -/
def State.withFetchWord (s : State) (nbits w : Nat) : State := s.offerWord (BitVec.ofNat 67 (w % 2 ^ nbits))

end Sys2Proof.Machine
end

