-- ==== Sys2Proof/Machine/HostNotation.lean ====
section
/-!
DEFINITION. The host notation of 30_encoding.md: the host statements of R78, the macros of R79 and how a straight list of
statements runs over the machine (log 11). The host, not the unit, executes these.
-/
namespace Sys2Proof.Machine

/-- A host statement (R78). The host variable a read fills is the value's place in `observed`. -/
inductive HostStmt where
  /-- Offer the request, and return when the unit accepts it. -/
  | issue (i : Instr)
  /-- Return when STATUS.BUSY = 0. -/
  | wait
  /-- Read a host-visible register into a host variable. -/
  | read (r : HostReg)
  deriving DecidableEq, Repr

/-- A pseudo-instruction (R79). -/
inductive Macro where
  | run (i : Instr)
  | div (a b : Word)
  | mod (a b : Word)
  | mul (a b : Word)
  | mulwide (a b : Word)
  | mulhi (a b : Word)
  | lzc (x : Word)
  | isqrt (x : Word)
  deriving DecidableEq, Repr

/-- The expansion of each pseudo-instruction (R79); the omitted B of CLZ and RSQRT is 0 (R77). -/
def Macro.expand : Macro → List HostStmt
  | .run i => [.issue i, .wait]
  | .div a b => [.issue (.divmod a b), .wait, .read .r0]
  | .mod a b => [.issue (.divmod a b), .wait, .read .r1]
  | .mul a b => [.issue (.mul32 a b), .wait, .read .r0]
  | .mulwide a b => [.issue (.mulw a b), .wait, .read .r0, .read .r1]
  | .mulhi a b => [.issue (.mulw a b), .wait, .read .r1]
  | .lzc x => [.issue (.clz x 0), .wait, .read .r0]
  | .isqrt x => [.issue (.rsqrt x 0), .wait, .read .r0]

/-- How a list of host statements ends. -/
inductive HostEnd where
  /-- Every statement has returned. -/
  | finished (s : State)
  /-- A read found ⊥ (R24). -/
  | faulted (r : Fault)
  /-- The machine refused a request. -/
  | refused (r : Refusal)
  /-- The allowance of turns ran out before the last statement returned. -/
  | pending (s : State)
  deriving DecidableEq, Repr

/-- Running host statements, at most `fuel` turns (log 11). `issue` and a `wait` that finds BUSY = 1 take a step of the
machine a turn, the request offered at each step until it is accepted; a read takes none, because it changes nothing of
the unit (R38). -/
def runHost : Nat → List HostStmt → State → HostEnd
  | _, [], s => .finished s
  | 0, _ :: _, s => .pending s
  | fuel + 1, .issue i :: rest, s =>
    match step (s.present (HostStep.offer (Request.ofInstr i))) with
    | .next t => runHost fuel (if s.busy then .issue i :: rest else rest) t
    | .fault r => .faulted r
    | .refused r => .refused r
  | fuel + 1, .wait :: rest, s =>
    if s.busy then
      match step (s.present HostStep.quiet) with
      | .next t => runHost fuel (.wait :: rest) t
      | .fault r => .faulted r
      | .refused r => .refused r
    else runHost fuel rest s
  | fuel + 1, .read r :: rest, s =>
    match s.readReg r with
    | some x => runHost fuel rest { s with observed := s.observed ++ [(r, x)] }
    | none => .faulted (.readNoValue r)

end Sys2Proof.Machine
end

