-- ==== Sys2Proof/Machine/SourceLine.lean ====
section
/-!
DEFINITION. The text form of a request (30_encoding.md R77): one line, with its optional label and comment, read into a
written request and assembled into its request word. The host, not the unit, reads text.
-/
namespace Sys2Proof.Machine

/-- The operations, in the order of R72. -/
def operations : List Op := [.clz, .divmod, .mul32, .mulw, .rsqrt, .op5, .op6, .op7]

/-- A space or a tab (log 15). -/
def isBlank (c : Char) : Bool := c == ' ' || c == '\t'

/-- The text without the blanks at its two ends. -/
def trimBlanks (cs : List Char) : List Char := ((cs.dropWhile isBlank).reverse.dropWhile isBlank).reverse

/-- The line without its comment, which starts with `;` (R77). -/
def withoutComment (cs : List Char) : List Char := cs.takeWhile (· != ';')

/-- The line without its label, which ends in `:` (R77). -/
def withoutLabel (cs : List Char) : List Char :=
  match cs.dropWhile (· != ':') with
  | [] => cs
  | _ :: rest => rest

/-- The digits of R77's two bases, each at the place of its value; the first ten are the decimal ones. -/
def digits : List Char := "0123456789ABCDEF".toList

/-- The value of a digit: its place among the digits. A hexadecimal digit may have either case (log 15). -/
def digitValue (c : Char) : Option Nat := digits.idxOf? c.toUpper

/-- The number that digits stand for after the number `n` already read; none if one of them is no digit of the base. -/
def numeralFrom (base : Nat) : Nat → List Char → Option Nat
  | n, [] => some n
  | n, c :: cs =>
    match digitValue c with
    | some d => if d < base then numeralFrom base (n * base + d) cs else none
    | none => none

/-- A numeral: at least one digit, and every character a digit of the base. -/
def numeral (base : Nat) (cs : List Char) : Option Nat := if cs.isEmpty then none else numeralFrom base 0 cs

/-- An operand: decimal, `0x` hexadecimal, or a host variable that holds a value (R77). -/
def operandValue (vars : List (List Char × Nat)) (cs : List Char) : Option Nat :=
  match cs with
  | '0' :: 'x' :: hex => numeral 16 hex
  | _ =>
    match numeral 10 cs with
    | some n => some n
    | none => vars.lookup cs

/-- The operands of a line, separated by commas (R77); none if one of them is no operand. -/
def operandValues (vars : List (List Char × Nat)) : List (List Char) → Option (List Nat)
  | [] => some []
  | x :: xs =>
    match operandValue vars (trimBlanks x), operandValues vars xs with
    | some n, some ns => some (n :: ns)
    | _, _ => none

/-- A line `MNEMONIC operands` read into a written request (R77), under the values of the host's variables. -/
def readLine (vars : List (List Char × Nat)) (line : List Char) : Option Written :=
  let body := trimBlanks (withoutLabel (withoutComment line))
  let name := body.takeWhile fun c => !isBlank c
  match operations.find? fun o => o.mnemonic.toList == name with
  | some op => (operandValues vars ((body.drop name.length).splitOn ',')).map (Written.mk op)
  | none => none

/-- The request word of a line (R77). -/
def assembleLine (vars : List (List Char × Nat)) (line : List Char) : Option (BitVec 67) :=
  ((readLine vars line).bind Written.assemble).map encode

end Sys2Proof.Machine
end

