-- ==== Sys2Proof/Safety.lean ====
section
/-!
DEFINITION. The terms the statements use: running several steps, hosts that neither reset nor read the result registers, what it means
that a request completes with given results, and the invariants of the request protocol and of the datapaths.
-/
namespace Sys2Proof.Machine

/-- The next state, where there is one. -/
def nextOf {σ φ ρ : Type} : Host.Outcome σ φ ρ → Option σ
  | .next s => some s
  | .fault _ => none
  | .refused _ => none

/-- `k` steps, stopping at the first fault or refusal. -/
def runSteps : Nat → State → Host.Outcome State Fault Refusal
  | 0, s => .next s
  | k + 1, s =>
    match step s with
    | .next t => runSteps k t
    | .fault r => .fault r
    | .refused r => .refused r

/-- The host neither raises RESET nor reads R0 or R1 at this step; it may poll STATUS and offer any request. -/
def HostStep.polite (h : HostStep) : Bool := !h.rst && h.reads.all (· == .status)

/-- The host is polite at each of the coming `k` steps, and may offer any request at any of them. -/
def State.undisturbed (k : Nat) (s : State) : Bool := (s.inputs.take k).all HostStep.polite

/-- No read of the coming step finds ⊥. -/
def State.readsSafe (s : State) : Bool := (s.noValueRead s.ports.reads).isNone

/-- A request has completed with these results (R197). -/
structure Completed (x0 x1 : Word) (illop : Bool) (t : State) : Prop where
  r0 : t.r0 = some x0
  r1 : t.r1 = some x1
  busy : t.busy = false
  done : t.done = true
  illop : t.illop = illop

/-- A request is in flight: BUSY is the only STATUS bit set, and R0 and R1 hold ⊥ (R23, R24, R195). -/
structure InFlight (t : State) : Prop where
  r0 : t.r0 = none
  r1 : t.r1 = none
  busy : t.busy = true
  done : t.done = false
  illop : t.illop = false

/-- From `s`, the request in flight completes with these results at exactly the `k`-th coming step, if the host does not
disturb it, and is in flight after each earlier one. -/
def CompletesAfter (k : Nat) (x0 x1 : Word) (illop : Bool) (s : State) : Prop :=
  (∀ j < k, s.undisturbed j = true → ∃ t, runSteps j s = .next t ∧ InFlight t) ∧
  (s.undisturbed k = true → ∃ t, runSteps k s = .next t ∧ Completed x0 x1 illop t)

/-- The unit accepts the instruction in this state, and the accepted request completes after exactly `k` micro-steps with
these results. -/
def AcceptedAndCompletes (s : State) (i : Instr) (k : Nat) (x0 x1 : Word) (illop : Bool) : Prop :=
  ∃ t, exec i s = .next t ∧ t.inputs = s.inputs ∧ CompletesAfter k x0 x1 illop t

/-- The request protocol's invariant (R23 to R26, R29, R54). -/
structure ProtocolInv (s : State) : Prop where
  /-- While BUSY = 1 the micro-steps done are fewer than LAT (R29, R196), and the request is in flight. -/
  inFlight : s.busy = true → s.cnt.toNat < lat (Op.ofCode s.op) ∧ InFlight s
  /-- When DONE = 1 the unit is idle and both result registers hold values (R25). -/
  doneHolds : s.done = true → s.busy = false ∧ s.r0.isSome = true ∧ s.r1.isSome = true
  /-- When DONE = 0 both result registers hold ⊥ (R24). -/
  noResult : s.done = false → s.r0 = none ∧ s.r1 = none
  /-- ILLOP = 1 exactly after the completion of a reserved op code (R26). -/
  illopIff : s.illop = true ↔ s.done = true ∧ (Op.ofCode s.op).reserved = true

/-- CLZ's datapath after `k` micro-steps on x (R103): the window is x shifted right by 32 − S.n, it fits in the bits still
to be searched, and it is zero exactly if x is, in which case S.n is still 32. -/
structure ClzProgress (x : Word) (k : Nat) (s : State) : Prop where
  countLe : s.n.toNat ≤ 32
  window : s.v.toNat = x.toNat / 2 ^ (32 - s.n.toNat)
  windowLt : s.v.toNat < 2 ^ (32 >>> k)
  zeroIff : s.v = 0 ↔ x = 0
  zeroCount : x = 0 → s.n = 32

/-- DIVMOD's datapath after `k` micro-steps (R113, R114): with P the top k bits of the dividend, the remainder is P mod b
and the quotient's top k bits are ⌊P/b⌋; for b = 0 the remainder is P and the top k quotient bits are ones. -/
structure DivProgress (k : Nat) (s : State) : Prop where
  zdivIff : s.zdiv = true ↔ s.b = 0
  remLt : s.rem.toNat < 2 ^ k
  remainder : s.b ≠ 0 → s.rem.toNat = s.a.toNat / 2 ^ (32 - k) % s.b.toNat
  quotient : s.b ≠ 0 → s.quo.toNat = s.a.toNat / 2 ^ (32 - k) / s.b.toNat * 2 ^ (32 - k)
  zeroRem : s.b = 0 → s.rem.toNat = s.a.toNat / 2 ^ (32 - k)
  zeroQuo : s.b = 0 → s.quo.toNat = (2 ^ k - 1) * 2 ^ (32 - k)

/-- MUL32's datapath after `k` micro-steps (R122). -/
structure MulProgress (k : Nat) (s : State) : Prop where
  multiplicand : s.ma.toNat = s.a.toNat * 2 ^ k % 2 ^ 32
  product : s.acc.toNat = s.a.toNat * (s.b.toNat % 2 ^ k) % 2 ^ 32

/-- RSQRT's estimate after the micro-steps before number `k`, for k = 6 to 12 (R144, R150). -/
def rsqrtEstimate (tbl : Config.Table) (x : Word) (k : Nat) : Word :=
  if k ≤ 6 then tbl.get (highestBit x).toFin
  else if k ≤ 9 then rsqrtSeeded tbl x
  else nrIterate x (rsqrtSeeded tbl x)

/-- RSQRT's datapath after `k` micro-steps (R150): CLZ's for k ≤ 5, and from the seed on the edge case, the exponent, the
estimate, its square and the scaled product that R144 gives. -/
structure RsqrtProgress (tbl : Config.Table) (k : Nat) (s : State) : Prop where
  counting : k ≤ 5 → s.edge = .none ∧ ClzProgress s.a k s
  zeroIff : 6 ≤ k → (s.edge = .zero ↔ s.a = 0)
  oneIff : 6 ≤ k → (s.edge = .one ↔ s.a = 1)
  exponent : 6 ≤ k → s.edge = .none → s.exp = highestBit s.a
  estimate : 6 ≤ k → s.edge = .none → s.y = rsqrtEstimate tbl s.a k
  square : k = 8 ∨ k = 9 ∨ k = 11 ∨ k = 12 → s.edge = .none → s.y2 = nrSquare s.y
  scaled : k = 9 ∨ k = 12 → s.edge = .none → s.xy2 = nrScale s.a s.y2

/-- The datapath's progress of the operation in the latch. -/
def DatapathProgress (s : State) : Prop :=
  match Op.ofCode s.op with
  | .clz => ClzProgress s.a s.cnt.toNat s
  | .divmod => DivProgress s.cnt.toNat s
  | .mul32 => MulProgress s.cnt.toNat s
  | .rsqrt => RsqrtProgress s.table s.cnt.toNat s
  | .mulw | .op5 | .op6 | .op7 => True

/-- The invariant of the datapaths: a request in flight has progressed as the rules R103, R113, R114, R122 and R150 say,
and whenever DONE = 1 the result registers hold the results of the request in the latch (R21, R25, R28). -/
structure DatapathInv (s : State) : Prop where
  protocol : ProtocolInv s
  progress : s.busy = true → DatapathProgress s
  doneResult : s.done = true →
    s.r0 = some (requestResult s.table (Op.ofCode s.op) s.a s.b).1 ∧
    s.r1 = some (requestResult s.table (Op.ofCode s.op) s.a s.b).2

end Sys2Proof.Machine
end

