-- ==== Sys2Proof/Certificates/Slice0/Obligations.lean ====
section
/-!
DEFINITION. The statements for the provers, from the numbered rules of spec/. Each docstring names the rules it formalises.
-/
open Sys2Proof Sys2Proof.Machine

/-! ### Encoding (30_encoding.md) -/

/-- One request word of 95_test_vectors.md for each row of R72 decodes to the request the text writes beside it. -/
def Obligations.RequestWordsOfTheSpecDecode : Prop :=
  decode 0x0FFFFFFFF00000005 = .clz 5 0xFFFFFFFF ∧
  decode 0x10000000700000064 = .divmod 100 7 ∧
  decode 0x29ABCDEF012345678 = .mul32 0x12345678 0x9ABCDEF0 ∧
  decode 0x30000000212345678 = .mulw 0x12345678 2 ∧
  decode 0x41234567800000005 = .rsqrt 5 0x12345678 ∧
  decode 0x50000000200000001 = .op5 1 2 ∧
  decode 0x6FFFFFFFFFFFFFFFF = .op6 0xFFFFFFFF 0xFFFFFFFF ∧
  decode 0x70000000000000000 = .op7 0 0

/-- Decoding an encoded request gives it back, every bit of A and B included; so does the decoder over the table's bits
(whose byte layout is the model's choice, log 10). -/
def Obligations.DecodeAfterEncodeIsIdentity : Prop :=
  ∀ i : Instr, i.wellFormed = true →
    decode (encode i) = i ∧
    decodeTableWord 72 (encode i).toNat = some i ∧ decodeTableWord 67 (encode i).toNat = some i

/-- Every request word is the encoding of the request it decodes to, and of no other: the words have one meaning each. -/
def Obligations.EveryRequestWordHasOneMeaning : Prop :=
  ∀ w : BitVec 67, encode (decode w) = w ∧ ∀ i : Instr, encode i = w → i = decode w

/-- R73: each value of OP selects exactly one row; OP alone decides the operation; no A or B is illegal; every row's mask
is 0b111 << 64. -/
def Obligations.DecodingUsesOpAlone : Prop :=
  (∀ w : BitVec 67, ∃ r ∈ opcodeRows, r.selects w = true ∧ r.op = (decode w).op ∧
    ∀ r' ∈ opcodeRows, r'.selects w = true → r' = r) ∧
  (∀ w w' : BitVec 67, w.extractLsb' 64 3 = w'.extractLsb' 64 3 → (decode w).op = (decode w').op) ∧
  (∀ w : BitVec 67, (decode w).wellFormed = true) ∧
  (∀ r ∈ opcodeRows, r.mask = 0b111#67 <<< 64 ∧ r.pattern = r.op.code.setWidth 67 <<< 64)

/-- The encoding of a request is (OP << 64) | (B << 32) | A (R77's formula, R70's layout). -/
def Obligations.RequestWordLayout : Prop :=
  ∀ i : Instr,
    (encode i).toNat = i.op.code.toNat * 2 ^ 64 + i.b.toNat * 2 ^ 32 + i.a.toNat ∧
    (encode i).extractLsb' 64 3 = i.op.code ∧ (encode i).extractLsb' 32 32 = i.b ∧ (encode i).extractLsb' 0 32 = i.a

/-- A written request (R77): `MNEMONIC A` for CLZ and RSQRT, where the omitted B is 0, and `MNEMONIC A, B` for the others;
an operand that is no 32-bit value is not assembled. As text: the rule's example, and a line with a label, a host variable, a
hexadecimal operand and a comment. -/
def Obligations.WrittenRequestsAssemble : Prop :=
  (∀ x < 2 ^ 32, (Written.mk .clz [x]).assemble = some (.clz (BitVec.ofNat 32 x) 0) ∧
    (Written.mk .rsqrt [x]).assemble = some (.rsqrt (BitVec.ofNat 32 x) 0)) ∧
  (∀ op, op ≠ .clz → op ≠ .rsqrt → ∀ x < 2 ^ 32, ∀ y < 2 ^ 32,
    (Written.mk op [x, y]).assemble = some (Instr.make op (BitVec.ofNat 32 x) (BitVec.ofNat 32 y))) ∧
  (∀ op x xs, 2 ^ 32 ≤ x → x ∈ xs → (Written.mk op xs).assemble = none) ∧
  assembleLine [] "DIVMOD 100, 7".toList = some 0x10000000700000064 ∧
  (∀ n < 2 ^ 32, assembleLine [(['n'], n)] "loop: DIVMOD n, 0xA ; the next digit".toList =
    some (encode (.divmod (BitVec.ofNat 32 n) 10)))

/-! ### One step (70_reset_and_hazards.md) -/

/-- At a step without RESET whose reads find values, the machine runs the decoded request: the one in the latch of a busy
unit, the one offered to an idle unit; an idle unit to which nothing is offered holds its state (R182, R194, R196). Around
it the step only takes the host's step off the list and keeps the values read. -/
def Obligations.StepRunsDecodedInstruction : Prop :=
  ∀ s : State, s.readsSafe = true → s.ports.rst = false →
    let s' := { s with inputs := s.inputs.tail, observed := s.observed ++ s.readValues s.ports.reads }
    (∀ i, s.busy = true → decode (s.op ++ s.b ++ s.a) = i → step s = exec i s') ∧
    (∀ r i, s.busy = false → s.ports.req = some r → decode (r.op ++ r.b ++ r.a) = i → step s = exec i s') ∧
    (s.busy = false → s.ports.req = none → step s = .next s')

/-- The word that `withFetchWord` places is run by the very next step (log 13: it stands for the host's offer to an idle
unit). -/
def Obligations.PlacedWordRunsNext : Prop :=
  ∀ (i : Instr) (s : State),
    step (s.withFetchWord 72 (encode i).toNat) = exec i { s with busy := false, inputs := s.inputs.tail }

/-- R190: at a step with RESET, whatever is in flight or offered, STATUS becomes 0, R0 and R1 hold ⊥, and the latch, S.cnt
and every working register take some values `u`, of which nothing is said; no result is written and nothing is accepted. (A read
of ⊥ in the same step faults first: log 3.) -/
def Obligations.ResetWinsOverEveryEvent : Prop :=
  ∀ s : State, s.readsSafe = true → s.ports.rst = true →
    ∃ u : Unspecified, step s = .next { s with
      r0 := none, r1 := none, busy := false, done := false, illop := false
      op := u.op, a := u.a, b := u.b, cnt := u.cnt, n := u.n, v := u.v, rem := u.rem, quo := u.quo, zdiv := u.zdiv
      acc := u.acc, ma := u.ma, exp := u.exp, y := u.y, y2 := u.y2, xy2 := u.xy2, edge := u.edge
      inputs := s.inputs.tail, observed := s.observed ++ s.readValues s.ports.reads, freeCount := s.freeCount + 1 }

/-- R37 and R191, for every register they give a value: the state at power-on, and that RESET leads back to it. -/
def Obligations.PowerOnIsTheStateAfterReset : Prop :=
  State.reset.r0 = none ∧ State.reset.r1 = none ∧ State.reset.statusWord = 0 ∧
  ∀ s t : State, s.ports.rst = true → step s = .next t →
    t.r0 = State.reset.r0 ∧ t.r1 = State.reset.r1 ∧ t.statusWord = State.reset.statusWord

/-- The STATUS layout of R22: BUSY is bit 0, DONE bit 1, ILLOP bit 2, and bits 31 to 3 read as zero; STATUS is register 2. -/
def Obligations.StatusWordLayout : Prop :=
  (∀ s : State, s.statusWord.getLsbD 0 = s.busy ∧ s.statusWord.getLsbD 1 = s.done ∧
    s.statusWord.getLsbD 2 = s.illop ∧ ∀ k ≥ 3, s.statusWord.getLsbD k = false) ∧
  HostReg.r0.number = 0 ∧ HostReg.r1.number = 1 ∧ HostReg.status.number = 2

/-- R200, and for a step with RESET the model's reading that a read sees the state before it and faults on ⊥ even then (log 3,
DEDUCED): a step faults exactly when the host reads R0 or R1 while it holds ⊥; otherwise the host gets, in order, the
values the registers it reads hold before the unit's event, and a read of STATUS always gets one. -/
def Obligations.HostReadsSeeTheStateBefore : Prop :=
  ∀ s : State,
    ((∃ f, step s = .fault f) ↔
      (HostReg.r0 ∈ s.ports.reads ∧ s.r0 = none) ∨ (HostReg.r1 ∈ s.ports.reads ∧ s.r1 = none)) ∧
    (∀ r, step s = .fault (.readNoValue r) → r ∈ s.ports.reads ∧ s.readReg r = none) ∧
    (∀ t, step s = .next t → ∃ vs, t.observed = s.observed ++ vs ∧ vs.map Prod.fst = s.ports.reads ∧
      ∀ r x, (r, x) ∈ vs →
        (r = .r0 → s.r0 = some x) ∧ (r = .r1 → s.r1 = some x) ∧ (r = .status → x = s.statusWord))

/-- R38 and R55: reads have no side effect. A step with reads that find values and the same step without them give states
that differ at most in what the host has observed. -/
def Obligations.HostReadsChangeNothing : Prop :=
  ∀ (s : State) (h : HostStep) (rest : List HostStep), s.inputs = h :: rest → s.readsSafe = true →
    ∃ t u, step s = .next t ∧ step { s with inputs := { h with reads := [] } :: rest } = .next u ∧
      { t with observed := [] } = { u with observed := [] }

/-- R170: no request and no operands raise a fault or a refusal; a step stops only on a host read of ⊥. -/
def Obligations.RequestsNeverTrap : Prop :=
  (∀ (i : Instr) (s : State), ∃ t, exec i s = .next t) ∧
  (∀ s : State, s.readsSafe = true → ∃ t, step s = .next t)

/-! ### Acceptance (R194, R195) -/

/-- R195, whole: what ACCEPT writes for each operation, and that it changes nothing else. -/
def Obligations.AcceptanceState : Prop :=
  ∀ (s : State) (a b : Word), s.busy = false →
    let acc : State := { s with
      r0 := none, r1 := none, busy := true, done := false, illop := false, a := a, b := b, cnt := 0 }
    exec (.clz a b) s = .next { acc with op := 0, n := 32, v := a } ∧
    exec (.divmod a b) s = .next { acc with op := 1, rem := 0, quo := 0, zdiv := decide (b = 0) } ∧
    exec (.mul32 a b) s = .next { acc with op := 2, acc := 0, ma := a } ∧
    exec (.mulw a b) s = .next { acc with op := 3 } ∧
    exec (.rsqrt a b) s =
      .next { acc with op := 4, n := 32, v := a, exp := 0, y := 0, y2 := 0, xy2 := 0, edge := .none } ∧
    exec (.op5 a b) s = .next { acc with op := 5 } ∧
    exec (.op6 a b) s = .next { acc with op := 6 } ∧
    exec (.op7 a b) s = .next { acc with op := 7 }

/-- R194: an offered request is accepted exactly when BUSY = 0 and no RESET falls in the step. Then the latch holds it and it is
in flight. While BUSY = 1 the latch is unchanged and the step is the one that happens with nothing offered: nothing is queued,
and the host may offer the request again. With RESET the step is the one that happens with nothing offered, too, and the unit
is idle after it. `req_ready` equals NOT BUSY. -/
def Obligations.OfferAcceptedExactlyWhenIdle : Prop :=
  ∀ (s : State) (h : HostStep) (rest : List HostStep) (r : Request),
    s.inputs = h :: rest → s.readsSafe = true → h.req = some r →
    s.reqReady = !s.busy ∧
    (h.rst = false → s.busy = false → ∃ t, step s = .next t ∧ t.op = r.op ∧ t.a = r.a ∧ t.b = r.b ∧ t.cnt = 0 ∧ InFlight t) ∧
    (h.rst = false → s.busy = true →
      ∃ t, step s = .next t ∧ t.op = s.op ∧ t.a = s.a ∧ t.b = s.b ∧ t.cnt = s.cnt + 1 ∧
        step { s with inputs := { h with req := none } :: rest } = .next t) ∧
    (h.rst = true → ∃ t, step s = .next t ∧ t.busy = false ∧
      step { s with inputs := { h with req := none } :: rest } = .next t)

/-! ### Micro-steps (R196) and completion (R197) -/

/-- R196 and R197 for every operation: a micro-step adds 1 to S.cnt; if that is not LAT(S.op) the result registers and STATUS
are unchanged, and if it is, both are written, BUSY is 0, DONE is 1 and ILLOP says whether S.op is 5, 6 or 7. For S.cnt at or
above LAT(S.op), which no rule speaks of and no run reaches, that a micro-step counts on modulo 64 and completes nothing is the
model's choice (log 7, DESIGN CHOICE). -/
def Obligations.MicrostepCountsAndCompletes : Prop :=
  ∀ (i : Instr) (s : State), s.busy = true →
    ∃ t, exec i s = .next t ∧ t.cnt = s.cnt + 1 ∧
      ((s.cnt + 1).toNat ≠ lat (Op.ofCode s.op) →
        t.r0 = s.r0 ∧ t.r1 = s.r1 ∧ t.busy = s.busy ∧ t.done = s.done ∧ t.illop = s.illop) ∧
      ((s.cnt + 1).toNat = lat (Op.ofCode s.op) →
        t.r0.isSome = true ∧ t.r1.isSome = true ∧ t.busy = false ∧ t.done = true ∧
        t.illop = decide (s.op = 5 ∨ s.op = 6 ∨ s.op = 7))

/-- The frame of a micro-step, whichever request stands at the inputs: the latch is unchanged (R28), each operation changes only its
own working registers (R31 to R34, R195), and neither the table (R36) nor anything of the host's side changes. For S.cnt at or
above LAT(S.op) that this holds is the model's choice (log 7, DESIGN CHOICE). -/
def Obligations.MicrostepFrame : Prop :=
  ∀ (i : Instr) (s : State), s.busy = true →
    ∃ t, exec i s = .next t ∧
      t.op = s.op ∧ t.a = s.a ∧ t.b = s.b ∧ t.zdiv = s.zdiv ∧ t.table = s.table ∧
      t.inputs = s.inputs ∧ t.observed = s.observed ∧ t.freeCount = s.freeCount ∧
      (s.op ≠ 0 → s.op ≠ 4 → t.n = s.n ∧ t.v = s.v) ∧
      (s.op ≠ 1 → t.rem = s.rem ∧ t.quo = s.quo) ∧
      (s.op ≠ 2 → t.acc = s.acc ∧ t.ma = s.ma) ∧
      (s.op ≠ 4 → t.exp = s.exp ∧ t.y = s.y ∧ t.y2 = s.y2 ∧ t.xy2 = s.xy2 ∧ t.edge = s.edge)

/-- CLZ's micro-steps (R102) and its completion (R101), with their frame. -/
def Obligations.ClzMicrosteps : Prop :=
  ∀ (i : Instr) (s : State), s.busy = true → s.op = 0 → s.cnt.toNat < 5 →
    let c := 16 >>> s.cnt.toNat
    let t : State := if s.v >>> c ≠ 0 then { s with n := s.n - BitVec.ofNat 6 c, v := s.v >>> c } else s
    exec i s = .next
      (if s.cnt = 4 then
        { t with
          cnt := 5, r0 := some (BitVec.ofNat 32 t.n.toNat - t.v), r1 := some 0
          busy := false, done := true, illop := false }
      else { t with cnt := s.cnt + 1 })

/-- DIVMOD's micro-steps (R112) and its completion (R111), in unbounded arithmetic, with their frame. -/
def Obligations.DivmodMicrosteps : Prop :=
  ∀ (i : Instr) (s : State), s.busy = true → s.op = 1 → s.cnt.toNat < 32 →
    let k := s.cnt.toNat
    let r := 2 * s.rem.toNat + (if s.a.getLsbD (31 - k) then 1 else 0)
    let t : State :=
      if s.b.toNat ≤ r then { s with rem := BitVec.ofNat 32 (r - s.b.toNat), quo := s.quo ||| BitVec.ofNat 32 (2 ^ (31 - k)) }
      else { s with rem := BitVec.ofNat 32 r }
    exec i s = .next
      (if k = 31 then
        { t with
          cnt := 32, r0 := some (if s.zdiv then 0 else t.quo), r1 := some (if s.zdiv then 0 else t.rem)
          busy := false, done := true, illop := false }
      else { t with cnt := s.cnt + 1 })

/-- MUL32's micro-steps (R121) and its completion (R120), in unbounded arithmetic, with their frame. -/
def Obligations.Mul32Microsteps : Prop :=
  ∀ (i : Instr) (s : State), s.busy = true → s.op = 2 → s.cnt.toNat < 32 →
    let t : State := { s with
      acc := BitVec.ofNat 32 (s.acc.toNat + (if s.b.getLsbD s.cnt.toNat then s.ma.toNat else 0))
      ma := BitVec.ofNat 32 (2 * s.ma.toNat) }
    exec i s = .next
      (if s.cnt = 31 then
        { t with cnt := 32, r0 := some t.acc, r1 := some 0, busy := false, done := true, illop := false }
      else { t with cnt := s.cnt + 1 })

/-- MULW's one micro-step and its completion (R123), in unbounded arithmetic, with their frame. -/
def Obligations.MulwMicrostep : Prop :=
  ∀ (i : Instr) (s : State), s.busy = true → s.op = 3 → s.cnt = 0 →
    exec i s = .next { s with
      cnt := 1
      r0 := some (BitVec.ofNat 32 (s.a.toNat * s.b.toNat))
      r1 := some (BitVec.ofNat 32 (s.a.toNat * s.b.toNat / 2 ^ 32))
      busy := false, done := true, illop := false }

/-- RSQRT's micro-steps 0 to 11, row by row of R150, under any table, in unbounded arithmetic, with their frame. -/
def Obligations.RsqrtMicrosteps : Prop :=
  ∀ (i : Instr) (s : State), s.busy = true → s.op = 4 →
    let T := s.table
    let c := 16 >>> s.cnt.toNat
    let lz := BitVec.ofNat 32 s.n.toNat - s.v
    let e : BitVec 5 := BitVec.ofNat 5 (31 - lz).toNat
    let pow := 2 ^ s.exp.toNat
    let ynext : Word := if h : s.exp.toNat < 31 then T.get ⟨s.exp.toNat + 1, by omega⟩ else 0
    let frac := BitVec.ofNat 32 ((s.a.toNat - pow) * 2 ^ 16 / pow)
    let u : State := { s with cnt := s.cnt + 1 }
    (s.cnt.toNat ≤ 4 →
      exec i s = .next (if s.v >>> c ≠ 0 then { u with n := s.n - BitVec.ofNat 6 c, v := s.v >>> c } else u)) ∧
    (s.cnt = 5 →
      exec i s = .next (if s.a = 0 then { u with edge := .zero } else if s.a = 1 then { u with edge := .one }
        else { u with exp := e, y := T.get e.toFin })) ∧
    (s.cnt = 6 →
      exec i s = .next (if s.edge = .none ∧ pow < s.a.toNat
        then { u with y := s.y - BitVec.ofNat 32 ((s.y - ynext).toNat * frac.toNat / 2 ^ 16) } else u)) ∧
    (s.cnt = 7 ∨ s.cnt = 10 →
      exec i s = .next (if s.edge = .none then { u with y2 := BitVec.ofNat 32 (s.y.toNat * s.y.toNat) } else u)) ∧
    (s.cnt = 8 ∨ s.cnt = 11 →
      exec i s = .next
        (if s.edge = .none then { u with xy2 := BitVec.ofNat 32 (s.a.toNat * s.y2.toNat / 2 ^ 16) } else u)) ∧
    (s.cnt = 9 →
      exec i s = .next
        (if s.edge = .none then { u with y := BitVec.ofNat 32 (s.y.toNat * (0x30000 - s.xy2).toNat / 2 ^ 17) } else u))

/-- RSQRT's last micro-step (R150, number 12) and its completion (R151), with their frame. -/
def Obligations.RsqrtLastMicrostep : Prop :=
  ∀ (i : Instr) (s : State), s.busy = true → s.op = 4 → s.cnt = 12 →
    let y := BitVec.ofNat 32 (s.y.toNat * (0x30000 - s.xy2).toNat / 2 ^ 17)
    let t : State := { s with cnt := 13, r1 := some 0, busy := false, done := true, illop := false }
    exec i s = .next
      (match s.edge with
      | .zero => { t with r0 := some 0xFFFFFFFF }
      | .one => { t with r0 := some 0x00010000 }
      | .none => { t with y := y, r0 := some y })

/-- The one micro-step of a reserved op code and its completion (R75, R197), with their frame. -/
def Obligations.ReservedMicrostep : Prop :=
  ∀ (i : Instr) (s : State), s.busy = true → s.op = 5 ∨ s.op = 6 ∨ s.op = 7 → s.cnt = 0 →
    exec i s = .next { s with
      cnt := 1, r0 := some 0, r1 := some 0, busy := false, done := true, illop := true }

/-! ### Results of the operations -/

/-- R100: `clz32` is 32 for 0 and otherwise 31 less the index of the highest set bit, so that
2^(31−CLZ(x)) ≤ x < 2^(32−CLZ(x)). -/
def Obligations.Clz32CountsLeadingZeros : Prop :=
  ∀ x : Word, clz32 x ≤ 32 ∧ (x = 0 → clz32 x = 32) ∧
    (x ≠ 0 → clz32 x ≤ 31 ∧ x.getLsbD (31 - clz32 x) = true ∧ (∀ j > 31 - clz32 x, x.getLsbD j = false) ∧
      2 ^ (31 - clz32 x) ≤ x.toNat ∧ x.toNat < 2 ^ (32 - clz32 x))

/-- R103: from S.n = 32 and S.v = x, micro-steps 0 to 4 of CLZ's datapath end with S.n − S.v = clz32(x), and with
S.v = 0 if x is 0 and 1 otherwise (R102). -/
def Obligations.ClzDatapathCounts : Prop :=
  ∀ s : State,
    let t := (List.range 5).foldl (fun u k => u.clzStep k) { s with n := 32, v := s.a }
    (BitVec.ofNat 32 t.n.toNat - t.v).toNat = clz32 s.a ∧ t.v = if s.a = 0 then 0 else 1

/-- R101 and R104: an idle unit accepts CLZ, and after exactly 5 micro-steps R0 is clz32(A) and R1 is 0. -/
def Obligations.ClzResult : Prop :=
  ∀ (s : State) (a b : Word), s.busy = false → AcceptedAndCompletes s (.clz a b) 5 (BitVec.ofNat 32 (clz32 a)) 0 false

/-- R113 and R114: DIVMOD's datapath after k micro-steps, for every k up to 32, both for b ≠ 0 and for b = 0; the shifted
remainder of the next micro-step fits in 32 bits; and after all 32 the completion rule gives `divmod32`. -/
def Obligations.DivmodDatapathDivides : Prop :=
  ∀ (s : State) (k : Nat), k ≤ 32 →
    let t := (List.range k).foldl (fun u j => u.divStep j) { s with rem := 0, quo := 0, zdiv := decide (s.b = 0) }
    t.rem.toNat < 2 ^ k ∧
    (s.b ≠ 0 → t.rem.toNat < s.b.toNat ∧ t.rem.toNat = s.a.toNat / 2 ^ (32 - k) % s.b.toNat ∧
      t.quo.toNat = s.a.toNat / 2 ^ (32 - k) / s.b.toNat * 2 ^ (32 - k)) ∧
    (s.b = 0 → k = 32 → t.quo = 0xFFFFFFFF ∧ t.rem = s.a) ∧
    (k < 32 → 2 * t.rem.toNat + (if s.a.getLsbD (31 - k) then 1 else 0) < 2 ^ (k + 1)) ∧
    (k = 32 → t.divResults = divmod32 s.a s.b)

/-- R110, R115 and R116: an idle unit accepts DIVMOD, and after exactly 32 micro-steps R0 and R1 are ⌊a/b⌋ and a mod b, or (0, 0)
for a zero divisor. -/
def Obligations.DivmodResult : Prop :=
  ∀ (s : State) (a b : Word), s.busy = false →
    (b = 0 → AcceptedAndCompletes s (.divmod a b) 32 0 0 false) ∧
    (b ≠ 0 → ∃ q r : Word, q.toNat = a.toNat / b.toNat ∧ r.toNat = a.toNat - q.toNat * b.toNat ∧
      r.toNat < b.toNat ∧ AcceptedAndCompletes s (.divmod a b) 32 q r false)

/-- R122: MUL32's datapath after micro-step k, for every k below 32. -/
def Obligations.Mul32DatapathMultiplies : Prop :=
  ∀ (s : State) (k : Nat), k < 32 →
    let t := (List.range (k + 1)).foldl (fun u j => u.mulStep j) { s with acc := 0, ma := s.a }
    t.ma.toNat = s.a.toNat * 2 ^ (k + 1) % 2 ^ 32 ∧
    t.acc.toNat = s.a.toNat * (s.b.toNat % 2 ^ (k + 1)) % 2 ^ 32 ∧
    (k = 31 → t.acc.toNat = s.a.toNat * s.b.toNat % 2 ^ 32 ∧ t.acc = lowWord (wmul s.a s.b))

/-- R120 and R126: an idle unit accepts MUL32, and after exactly 32 micro-steps R0 is a·b mod 2^32 and R1 is 0. -/
def Obligations.Mul32Result : Prop :=
  ∀ (s : State) (a b : Word), s.busy = false →
    AcceptedAndCompletes s (.mul32 a b) 32 (BitVec.ofNat 32 (a.toNat * b.toNat)) 0 false

/-- R124: the widening product is exact, and its halves are a·b mod 2^32 and ⌊a·b / 2^32⌋. -/
def Obligations.WideningProductIsExact : Prop :=
  ∀ a b : Word,
    (wmul a b).toNat = a.toNat * b.toNat ∧
    (lowWord (wmul a b)).toNat = a.toNat * b.toNat % 2 ^ 32 ∧
    (highWord (wmul a b)).toNat = a.toNat * b.toNat / 2 ^ 32 ∧
    (lowWord (wmul a b)).toNat + (highWord (wmul a b)).toNat * 2 ^ 32 = a.toNat * b.toNat

/-- R123 and R126: an idle unit accepts MULW, and after exactly 1 micro-step R0 and R1 are the low and the high word of
the exact product. -/
def Obligations.MulwResult : Prop :=
  ∀ (s : State) (a b : Word), s.busy = false →
    ∃ lo hi : Word, lo.toNat + hi.toNat * 2 ^ 32 = a.toNat * b.toNat ∧ AcceptedAndCompletes s (.mulw a b) 1 lo hi false

/-- R144, whole, over any table, written in unbounded arithmetic with `exp` the index of the highest set bit. -/
def Obligations.Rsqrt32Algorithm : Prop :=
  ∀ (T : Config.Table) (x : Word),
    (x = 0 → rsqrt32 T x = 0xFFFFFFFF) ∧ (x = 1 → rsqrt32 T x = 0x00010000) ∧
    (2 ≤ x.toNat → ∀ (e : Fin 32), 2 ^ e.val ≤ x.toNat → x.toNat < 2 ^ (e.val + 1) →
      let ynext : Word := if h : e.val < 31 then T.get ⟨e.val + 1, by omega⟩ else 0
      let frac := (x.toNat - 2 ^ e.val) * 2 ^ 16 / 2 ^ e.val
      let y0 : Word :=
        if 2 ^ e.val < x.toNat then T.get e - BitVec.ofNat 32 ((T.get e - ynext).toNat * frac / 2 ^ 16) else T.get e
      let iterate := fun y : Word =>
        let y2 := y.toNat * y.toNat % 2 ^ 32
        let xy2 := BitVec.ofNat 32 (x.toNat * y2 / 2 ^ 16)
        BitVec.ofNat 32 (y.toNat * (0x30000 - xy2).toNat / 2 ^ 17)
      rsqrt32 T x = iterate (iterate y0))

/-- R151: for every table, the 13 micro-steps of R150 from the acceptance's load, and the completion rule, give
rsqrt32(S.a). -/
def Obligations.RsqrtDatapathComputesRsqrt32 : Prop :=
  ∀ (T : Config.Table) (s : State),
    let t := (List.range 13).foldl (fun u k => u.rsqrtStep T k) s.rsqrtLoad
    (if t.edge = .zero then 0xFFFFFFFF else if t.edge = .one then 0x00010000 else t.y) = rsqrt32 T s.a ∧
    t.rsqrtResults = (rsqrt32 T s.a, 0)

/-- R143 and R152: an idle unit accepts RSQRT, and after exactly 13 micro-steps, for every input and under any table the unit
is built with (log 6), R0 is rsqrt32(A) and R1 is 0. -/
def Obligations.RsqrtResult : Prop :=
  ∀ (s : State) (a b : Word), s.busy = false →
    AcceptedAndCompletes s (.rsqrt a b) 13 (rsqrt32 s.table a) 0 false

/-- R145, R146 and R153: the three normative vectors, whatever B is, for 0 and 1 under any table and for 5 under the default
one; what the general path would give for x = 1; and the stages of the trace for x = 5. -/
def Obligations.RsqrtRegressionVectors : Prop :=
  (∀ (s : State) (b : Word), s.busy = false →
    AcceptedAndCompletes s (.rsqrt 0 b) 13 0xFFFFFFFF 0 false ∧ AcceptedAndCompletes s (.rsqrt 1 b) 13 65536 0 false ∧
    (s.table = Config.rsqrtTable → AcceptedAndCompletes s (.rsqrt 5 b) 13 0x727C 0 false)) ∧
  nrSquare 65536 = 0 ∧ nrIterate 1 65536 = 98304 ∧ nrIterate 1 98304 = 135168 ∧
  Config.rsqrtTable.get 2 = 32768 ∧ rsqrtSeeded Config.rsqrtTable 5 = 30369 ∧
  nrIterate 5 30369 = 29250 ∧ nrIterate 5 29250 = 0x727C

/-- R142: the decided table is strictly decreasing, its last entry is 1, and `delta` is always in 1..19195, its largest value
being TABLE[0] − TABLE[1]. Over any table `delta` is the difference where the next entry is not above this one, and wraps modulo
2^32 otherwise. -/
def Obligations.RsqrtTableDecreases : Prop :=
  (∀ k : Fin 32, ∀ h : k.val < 31, Config.rsqrtTable.get ⟨k.val + 1, by omega⟩ < Config.rsqrtTable.get k) ∧
  Config.rsqrtTable.get 31 = 1 ∧
  (∀ k : Fin 32,
    let delta := Config.rsqrtTable.get k - tableNext Config.rsqrtTable (BitVec.ofFin k)
    1 ≤ delta.toNat ∧ delta.toNat ≤ 19195) ∧
  Config.rsqrtTable.get 0 - Config.rsqrtTable.get 1 = 19195 ∧
  (∀ (T : Config.Table) (k : Fin 32),
    let next := tableNext T (BitVec.ofFin k)
    (next.toNat ≤ (T.get k).toNat → (T.get k - next).toNat = (T.get k).toNat - next.toNat) ∧
    ((T.get k).toNat < next.toNat → (T.get k - next).toNat = 2 ^ 32 + (T.get k).toNat - next.toNat))

/-- Each entry of the decided table is the nearest integer to 65536/√(2^k), exact for even k (R141's rule for the values,
in squared form). -/
def Obligations.RsqrtTableIsNearest : Prop :=
  ∀ k : Fin 32,
    (2 * (Config.rsqrtTable.get k).toNat - 1) ^ 2 * 2 ^ k.val < 2 ^ 34 ∧
    2 ^ 34 < (2 * (Config.rsqrtTable.get k).toNat + 1) ^ 2 * 2 ^ k.val ∧
    (k.val % 2 = 0 → (Config.rsqrtTable.get k).toNat = 2 ^ (16 - k.val / 2))

/-- R149: no intermediate of rsqrt32 overflows or wraps, for any x ≥ 2 with the decided table: in each of the two
iterations, on the estimate y it starts from, the four bounds hold. -/
def Obligations.RsqrtIntermediatesFit : Prop :=
  ∀ x : Word, 2 ≤ x.toNat → ∀ y : Word,
    y = rsqrtSeeded Config.rsqrtTable x ∨ y = nrIterate x (rsqrtSeeded Config.rsqrtTable x) →
    let xy2 := x.toNat * (y.toNat * y.toNat) / 2 ^ 16
    y.toNat * y.toNat < 2 ^ 32 ∧ x.toNat * (y.toNat * y.toNat) < 2 ^ 48 ∧ xy2 ≤ 3 * 2 ^ 16 ∧
    y.toNat * (3 * 2 ^ 16 - xy2) / 2 ^ 17 < 2 ^ 32

/-- The accuracy bound |y·√x / 65536 − 1| < 2^-10, squared, holds for every x in 1..4168 and fails at 4169 (from R154). -/
def Obligations.RsqrtAccuracyRange : Prop :=
  let within := fun x : Nat =>
    let y := (rsqrt32 Config.rsqrtTable (BitVec.ofNat 32 x)).toNat
    1023 ^ 2 * 2 ^ 32 < y ^ 2 * x * 2 ^ 20 ∧ y ^ 2 * x * 2 ^ 20 < 1025 ^ 2 * 2 ^ 32
  (∀ x, 1 ≤ x → x ≤ 4168 → within x) ∧ ¬ within 4169

/-- The nine points where RSQRT is not monotone, with the values R155 lists. -/
def Obligations.RsqrtNonMonotonePoints : Prop :=
  let rises := fun x below here : Word =>
    rsqrt32 Config.rsqrtTable (x - 1) = below ∧ rsqrt32 Config.rsqrtTable x = here
  rises 65536 255 256 ∧ rises 262144 127 128 ∧ rises 1048576 63 64 ∧ rises 4194304 31 32 ∧ rises 16777216 15 16 ∧
  rises 67108864 7 8 ∧ rises 201326592 3 4 ∧ rises 268435456 3 4 ∧ rises 1073741824 1 2

/-- What R144's algorithm gives for x = 2^e with e ≥ 1: no interpolation, and TABLE[e], except at e = 7, 19, 23, 27 and 29,
where it gives TABLE[e] − 1. R143's corner case says TABLE[e] for every e ≥ 1; R140 makes the algorithm the one that counts
(log 14). -/
def Obligations.RsqrtOfPowersOfTwo : Prop :=
  ∀ e : Fin 32, 1 ≤ e.val →
    rsqrtSeeded Config.rsqrtTable (1#32 <<< e.val) = Config.rsqrtTable.get e ∧
    rsqrt32 Config.rsqrtTable (1#32 <<< e.val) =
      if e.val = 7 ∨ e.val = 19 ∨ e.val = 23 ∨ e.val = 27 ∨ e.val = 29 then Config.rsqrtTable.get e - 1
      else Config.rsqrtTable.get e

/-- R75: a request with a reserved op code is accepted and completes after one micro-step with R0 = 0, R1 = 0 and
ILLOP = 1, whatever its operands. -/
def Obligations.ReservedResult : Prop :=
  ∀ (s : State) (a b : Word), s.busy = false →
    AcceptedAndCompletes s (.op5 a b) 1 0 0 true ∧ AcceptedAndCompletes s (.op6 a b) 1 0 0 true ∧
    AcceptedAndCompletes s (.op7 a b) 1 0 0 true

/-- R199 and R21: LAT is the table's, depends on OP alone, and is the exact number of micro-steps of every request from its
acceptance to its results. -/
def Obligations.EveryRequestTakesExactlyLat : Prop :=
  (lat .clz = 5 ∧ lat .divmod = 32 ∧ lat .mul32 = 32 ∧ lat .mulw = 1 ∧ lat .rsqrt = 13 ∧
    lat .op5 = 1 ∧ lat .op6 = 1 ∧ lat .op7 = 1) ∧
  ∀ (s : State) (i : Instr), s.busy = false →
    AcceptedAndCompletes s i (lat i.op) (requestResult s.table i.op i.a i.b).1 (requestResult s.table i.op i.a i.b).2
      i.op.reserved

/-- R9: the software and the native form of the leading-zero count and of the widening product agree on every input. -/
def Obligations.BackendsAgree : Prop :=
  ∀ (p q : Config.Backend) (a b : Word), clzBy p a = clzBy q a ∧ wmulBy p a b = wmulBy q a b

/-- R127: MUL32(a, b) is the low word of MULW(a, b), and is commutative in its value; the largest product is
0xFFFFFFFE_00000001. -/
def Obligations.Mul32IsTheLowWordOfMulw : Prop :=
  (∀ (T : Config.Table) (a b : Word), (requestResult T .mul32 a b).1 = (requestResult T .mulw a b).1 ∧
    (requestResult T .mul32 a b).1 = (requestResult T .mul32 b a).1 ∧
    (wmul a b).toNat ≤ 0xFFFFFFFE00000001) ∧
  wmul 0xFFFFFFFF 0xFFFFFFFF = 0xFFFFFFFE00000001

/-! ### Invariants, progress, independence -/

/-- The protocol invariant holds at power-on. -/
def Obligations.ProtocolInvAtReset : Prop := ProtocolInv State.reset

/-- Every step keeps the protocol invariant (R23 to R26, R29, R54), whatever the host does. -/
def Obligations.ProtocolInvKept : Prop := ∀ s t : State, ProtocolInv s → step s = .next t → ProtocolInv t

/-- The datapath invariant holds at power-on. -/
def Obligations.DatapathInvAtReset : Prop := DatapathInv State.reset

/-- Every step keeps the datapath invariant (R21, R103, R114, R122, R150), whatever the host does: at all times the
working registers are where the rules say, and a completed request's result registers hold its results. -/
def Obligations.DatapathInvKept : Prop := ∀ s t : State, DatapathInv s → step s = .next t → DatapathInv t

/-- R36: RSQRT_TABLE is read-only; no request, no RESET and no host action writes it. -/
def Obligations.TableNeverChanges : Prop := ∀ s t : State, step s = .next t → t.table = s.table

/-- R198: after a completion R0, R1 and STATUS keep their values for as long as there is no acceptance and no RESET,
however often the host reads them. -/
def Obligations.ResultsPersist : Prop :=
  ∀ (k : Nat) (s : State) (x0 x1 : Word) (ill : Bool), Completed x0 x1 ill s →
    (∀ h ∈ s.inputs.take k, h.rst = false ∧ h.req = none) →
    ∃ t, runSteps k s = .next t ∧ t.r0 = some x0 ∧ t.r1 = some x1 ∧ t.statusWord = s.statusWord

/-- R202: from any state of the protocol with BUSY = 1, without RESET, the unit reaches BUSY = 0 after at most 32 steps. -/
def Obligations.BusyUnitCompletesWithin32 : Prop :=
  ∀ s : State, ProtocolInv s → s.busy = true → s.undisturbed 32 = true →
    ∃ k ≤ 32, ∃ t, runSteps k s = .next t ∧ t.busy = false ∧ t.done = true

/-- R57 and R117: the results of a request do not depend on what came before it, on what the host offers meanwhile, or on
when it is issued: two idle units with the same table, in any two states, that accept the same request complete it with the same
R0, R1 and STATUS. -/
def Obligations.ResultsIndependentOfHistory : Prop :=
  ∀ (i : Instr) (s s' : State), s.table = s'.table → s.busy = false → s'.busy = false →
    s.undisturbed (lat i.op) = true → s'.undisturbed (lat i.op) = true →
    ∃ t t' u u', exec i s = .next t ∧ exec i s' = .next t' ∧
      runSteps (lat i.op) t = .next u ∧ runSteps (lat i.op) t' = .next u' ∧
      u.r0 = u'.r0 ∧ u.r1 = u'.r1 ∧ u.statusWord = u'.statusWord ∧ u.done = true

/-- R74: the operand an operation ignores cannot change any result: B for CLZ and RSQRT, A and B for the reserved codes. -/
def Obligations.IgnoredOperandsHaveNoEffect : Prop :=
  ∀ (s : State) (a b a' b' : Word), s.busy = false →
    ∀ p ∈ [(Instr.clz a b, Instr.clz a b'), (.rsqrt a b, .rsqrt a b'), (.op5 a b, .op5 a' b'), (.op6 a b, .op6 a' b'),
      (.op7 a b, .op7 a' b')],
    s.undisturbed (lat p.1.op) = true →
    ∃ t t' u u', exec p.1 s = .next t ∧ exec p.2 s = .next t' ∧
      runSteps (lat p.1.op) t = .next u ∧ runSteps (lat p.1.op) t' = .next u' ∧
      { u' with a := u.a, b := u.b } = u ∧ u.done = true

/-! ### The host notation (R78, R79) -/

/-- `issue` (R78) on a busy unit waits and is not lost: within 33 turns the unit has accepted the request. (The timing of
the turns is the model's, log 11.) -/
def Obligations.IssueWaitsAndIsAccepted : Prop :=
  ∀ (i : Instr) (s : State), ProtocolInv s →
    ∃ t, runHost 33 [.issue i] s = .finished t ∧ InFlight t ∧ t.op = i.op.code ∧ t.a = i.a ∧ t.b = i.b ∧ t.cnt = 0

/-- The eight macros of R79 on an idle unit: each returns, and the host has read what the table says. (The timing of the
turns is the model's, log 11.) -/
def Obligations.MacrosReturnTheResults : Prop :=
  ∀ (s : State) (a b : Word), s.busy = false →
    let reads := fun (m : Macro) (vs : List (HostReg × Word)) =>
      ∃ t, runHost 40 m.expand s = .finished t ∧ t.observed = s.observed ++ vs ∧ t.busy = false ∧ t.inputs = s.inputs
    reads (.div a b) [(.r0, if b = 0 then 0 else BitVec.ofNat 32 (a.toNat / b.toNat))] ∧
    reads (.mod a b) [(.r1, if b = 0 then 0 else BitVec.ofNat 32 (a.toNat % b.toNat))] ∧
    reads (.mul a b) [(.r0, BitVec.ofNat 32 (a.toNat * b.toNat))] ∧
    reads (.mulwide a b) [(.r0, BitVec.ofNat 32 (a.toNat * b.toNat)), (.r1, BitVec.ofNat 32 (a.toNat * b.toNat / 2 ^ 32))] ∧
    reads (.mulhi a b) [(.r1, BitVec.ofNat 32 (a.toNat * b.toNat / 2 ^ 32))] ∧
    reads (.lzc a) [(.r0, BitVec.ofNat 32 (clz32 a))] ∧
    reads (.isqrt a) [(.r0, rsqrt32 s.table a)] ∧
    ∀ i : Instr, ∃ t, runHost 40 (Macro.run i).expand s = .finished t ∧
      Completed (requestResult s.table i.op i.a i.b).1 (requestResult s.table i.op i.a i.b).2 i.op.reserved t
end

