-- ==== Sys2Proof/Laws/State.lean ====
section
/-!
SUPPORT. One lemma per field per update of the state: what each field holds after each named operation. Every one holds by
`rfl` and is a simp lemma, so that no proof unfolds a record update.
-/
namespace Sys2Proof.Machine

variable (s : State)

/-! The host's side of a step. -/

@[simp] theorem State.takeInputs_r0 : s.takeInputs.r0 = s.r0 := rfl
@[simp] theorem State.takeInputs_r1 : s.takeInputs.r1 = s.r1 := rfl
@[simp] theorem State.takeInputs_busy : s.takeInputs.busy = s.busy := rfl
@[simp] theorem State.takeInputs_done : s.takeInputs.done = s.done := rfl
@[simp] theorem State.takeInputs_illop : s.takeInputs.illop = s.illop := rfl
@[simp] theorem State.takeInputs_op : s.takeInputs.op = s.op := rfl
@[simp] theorem State.takeInputs_a : s.takeInputs.a = s.a := rfl
@[simp] theorem State.takeInputs_b : s.takeInputs.b = s.b := rfl
@[simp] theorem State.takeInputs_cnt : s.takeInputs.cnt = s.cnt := rfl
@[simp] theorem State.takeInputs_n : s.takeInputs.n = s.n := rfl
@[simp] theorem State.takeInputs_v : s.takeInputs.v = s.v := rfl
@[simp] theorem State.takeInputs_rem : s.takeInputs.rem = s.rem := rfl
@[simp] theorem State.takeInputs_quo : s.takeInputs.quo = s.quo := rfl
@[simp] theorem State.takeInputs_zdiv : s.takeInputs.zdiv = s.zdiv := rfl
@[simp] theorem State.takeInputs_acc : s.takeInputs.acc = s.acc := rfl
@[simp] theorem State.takeInputs_ma : s.takeInputs.ma = s.ma := rfl
@[simp] theorem State.takeInputs_exp : s.takeInputs.exp = s.exp := rfl
@[simp] theorem State.takeInputs_y : s.takeInputs.y = s.y := rfl
@[simp] theorem State.takeInputs_y2 : s.takeInputs.y2 = s.y2 := rfl
@[simp] theorem State.takeInputs_xy2 : s.takeInputs.xy2 = s.xy2 := rfl
@[simp] theorem State.takeInputs_edge : s.takeInputs.edge = s.edge := rfl
@[simp] theorem State.takeInputs_table : s.takeInputs.table = s.table := rfl
@[simp] theorem State.takeInputs_inputs : s.takeInputs.inputs = s.inputs.tail := rfl
@[simp] theorem State.takeInputs_observed : s.takeInputs.observed = s.observed ++ s.readValues s.ports.reads := rfl
@[simp] theorem State.takeInputs_freeCount : s.takeInputs.freeCount = s.freeCount := rfl

/-! One more step put before those the host has in mind. -/

@[simp] theorem State.present_r0 (h : HostStep) : (s.present h).r0 = s.r0 := rfl
@[simp] theorem State.present_r1 (h : HostStep) : (s.present h).r1 = s.r1 := rfl
@[simp] theorem State.present_busy (h : HostStep) : (s.present h).busy = s.busy := rfl
@[simp] theorem State.present_done (h : HostStep) : (s.present h).done = s.done := rfl
@[simp] theorem State.present_illop (h : HostStep) : (s.present h).illop = s.illop := rfl
@[simp] theorem State.present_op (h : HostStep) : (s.present h).op = s.op := rfl
@[simp] theorem State.present_a (h : HostStep) : (s.present h).a = s.a := rfl
@[simp] theorem State.present_b (h : HostStep) : (s.present h).b = s.b := rfl
@[simp] theorem State.present_cnt (h : HostStep) : (s.present h).cnt = s.cnt := rfl
@[simp] theorem State.present_n (h : HostStep) : (s.present h).n = s.n := rfl
@[simp] theorem State.present_v (h : HostStep) : (s.present h).v = s.v := rfl
@[simp] theorem State.present_rem (h : HostStep) : (s.present h).rem = s.rem := rfl
@[simp] theorem State.present_quo (h : HostStep) : (s.present h).quo = s.quo := rfl
@[simp] theorem State.present_zdiv (h : HostStep) : (s.present h).zdiv = s.zdiv := rfl
@[simp] theorem State.present_acc (h : HostStep) : (s.present h).acc = s.acc := rfl
@[simp] theorem State.present_ma (h : HostStep) : (s.present h).ma = s.ma := rfl
@[simp] theorem State.present_exp (h : HostStep) : (s.present h).exp = s.exp := rfl
@[simp] theorem State.present_y (h : HostStep) : (s.present h).y = s.y := rfl
@[simp] theorem State.present_y2 (h : HostStep) : (s.present h).y2 = s.y2 := rfl
@[simp] theorem State.present_xy2 (h : HostStep) : (s.present h).xy2 = s.xy2 := rfl
@[simp] theorem State.present_edge (h : HostStep) : (s.present h).edge = s.edge := rfl
@[simp] theorem State.present_table (h : HostStep) : (s.present h).table = s.table := rfl
@[simp] theorem State.present_inputs (h : HostStep) : (s.present h).inputs = h :: s.inputs := rfl
@[simp] theorem State.present_observed (h : HostStep) : (s.present h).observed = s.observed := rfl
@[simp] theorem State.present_freeCount (h : HostStep) : (s.present h).freeCount = s.freeCount := rfl

/-! A request word offered to an idle unit at the coming step. -/

@[simp] theorem State.offerWord_r0 (w : BitVec 67) : (s.offerWord w).r0 = s.r0 := rfl
@[simp] theorem State.offerWord_r1 (w : BitVec 67) : (s.offerWord w).r1 = s.r1 := rfl
@[simp] theorem State.offerWord_busy (w : BitVec 67) : (s.offerWord w).busy = false := rfl
@[simp] theorem State.offerWord_done (w : BitVec 67) : (s.offerWord w).done = s.done := rfl
@[simp] theorem State.offerWord_illop (w : BitVec 67) : (s.offerWord w).illop = s.illop := rfl
@[simp] theorem State.offerWord_op (w : BitVec 67) : (s.offerWord w).op = s.op := rfl
@[simp] theorem State.offerWord_a (w : BitVec 67) : (s.offerWord w).a = s.a := rfl
@[simp] theorem State.offerWord_b (w : BitVec 67) : (s.offerWord w).b = s.b := rfl
@[simp] theorem State.offerWord_cnt (w : BitVec 67) : (s.offerWord w).cnt = s.cnt := rfl
@[simp] theorem State.offerWord_n (w : BitVec 67) : (s.offerWord w).n = s.n := rfl
@[simp] theorem State.offerWord_v (w : BitVec 67) : (s.offerWord w).v = s.v := rfl
@[simp] theorem State.offerWord_rem (w : BitVec 67) : (s.offerWord w).rem = s.rem := rfl
@[simp] theorem State.offerWord_quo (w : BitVec 67) : (s.offerWord w).quo = s.quo := rfl
@[simp] theorem State.offerWord_zdiv (w : BitVec 67) : (s.offerWord w).zdiv = s.zdiv := rfl
@[simp] theorem State.offerWord_acc (w : BitVec 67) : (s.offerWord w).acc = s.acc := rfl
@[simp] theorem State.offerWord_ma (w : BitVec 67) : (s.offerWord w).ma = s.ma := rfl
@[simp] theorem State.offerWord_exp (w : BitVec 67) : (s.offerWord w).exp = s.exp := rfl
@[simp] theorem State.offerWord_y (w : BitVec 67) : (s.offerWord w).y = s.y := rfl
@[simp] theorem State.offerWord_y2 (w : BitVec 67) : (s.offerWord w).y2 = s.y2 := rfl
@[simp] theorem State.offerWord_xy2 (w : BitVec 67) : (s.offerWord w).xy2 = s.xy2 := rfl
@[simp] theorem State.offerWord_edge (w : BitVec 67) : (s.offerWord w).edge = s.edge := rfl
@[simp] theorem State.offerWord_table (w : BitVec 67) : (s.offerWord w).table = s.table := rfl
@[simp] theorem State.offerWord_inputs (w : BitVec 67) : (s.offerWord w).inputs = HostStep.offer (Request.ofWord w) :: s.inputs.tail := rfl
@[simp] theorem State.offerWord_observed (w : BitVec 67) : (s.offerWord w).observed = s.observed := rfl
@[simp] theorem State.offerWord_freeCount (w : BitVec 67) : (s.offerWord w).freeCount = s.freeCount := rfl

/-! Another RSQRT_TABLE. -/

@[simp] theorem State.withTable_r0 (tbl : Config.Table) : (s.withTable tbl).r0 = s.r0 := rfl
@[simp] theorem State.withTable_r1 (tbl : Config.Table) : (s.withTable tbl).r1 = s.r1 := rfl
@[simp] theorem State.withTable_busy (tbl : Config.Table) : (s.withTable tbl).busy = s.busy := rfl
@[simp] theorem State.withTable_done (tbl : Config.Table) : (s.withTable tbl).done = s.done := rfl
@[simp] theorem State.withTable_illop (tbl : Config.Table) : (s.withTable tbl).illop = s.illop := rfl
@[simp] theorem State.withTable_op (tbl : Config.Table) : (s.withTable tbl).op = s.op := rfl
@[simp] theorem State.withTable_a (tbl : Config.Table) : (s.withTable tbl).a = s.a := rfl
@[simp] theorem State.withTable_b (tbl : Config.Table) : (s.withTable tbl).b = s.b := rfl
@[simp] theorem State.withTable_cnt (tbl : Config.Table) : (s.withTable tbl).cnt = s.cnt := rfl
@[simp] theorem State.withTable_n (tbl : Config.Table) : (s.withTable tbl).n = s.n := rfl
@[simp] theorem State.withTable_v (tbl : Config.Table) : (s.withTable tbl).v = s.v := rfl
@[simp] theorem State.withTable_rem (tbl : Config.Table) : (s.withTable tbl).rem = s.rem := rfl
@[simp] theorem State.withTable_quo (tbl : Config.Table) : (s.withTable tbl).quo = s.quo := rfl
@[simp] theorem State.withTable_zdiv (tbl : Config.Table) : (s.withTable tbl).zdiv = s.zdiv := rfl
@[simp] theorem State.withTable_acc (tbl : Config.Table) : (s.withTable tbl).acc = s.acc := rfl
@[simp] theorem State.withTable_ma (tbl : Config.Table) : (s.withTable tbl).ma = s.ma := rfl
@[simp] theorem State.withTable_exp (tbl : Config.Table) : (s.withTable tbl).exp = s.exp := rfl
@[simp] theorem State.withTable_y (tbl : Config.Table) : (s.withTable tbl).y = s.y := rfl
@[simp] theorem State.withTable_y2 (tbl : Config.Table) : (s.withTable tbl).y2 = s.y2 := rfl
@[simp] theorem State.withTable_xy2 (tbl : Config.Table) : (s.withTable tbl).xy2 = s.xy2 := rfl
@[simp] theorem State.withTable_edge (tbl : Config.Table) : (s.withTable tbl).edge = s.edge := rfl
@[simp] theorem State.withTable_table (tbl : Config.Table) : (s.withTable tbl).table = tbl := rfl
@[simp] theorem State.withTable_inputs (tbl : Config.Table) : (s.withTable tbl).inputs = s.inputs := rfl
@[simp] theorem State.withTable_observed (tbl : Config.Table) : (s.withTable tbl).observed = s.observed := rfl
@[simp] theorem State.withTable_freeCount (tbl : Config.Table) : (s.withTable tbl).freeCount = s.freeCount := rfl

/-! RESET (R190). -/

@[simp] theorem State.applyReset_r0 : s.applyReset.r0 = none := rfl
@[simp] theorem State.applyReset_r1 : s.applyReset.r1 = none := rfl
@[simp] theorem State.applyReset_busy : s.applyReset.busy = false := rfl
@[simp] theorem State.applyReset_done : s.applyReset.done = false := rfl
@[simp] theorem State.applyReset_illop : s.applyReset.illop = false := rfl
@[simp] theorem State.applyReset_op : s.applyReset.op = (Config.afterReset s.freeCount).op := rfl
@[simp] theorem State.applyReset_a : s.applyReset.a = (Config.afterReset s.freeCount).a := rfl
@[simp] theorem State.applyReset_b : s.applyReset.b = (Config.afterReset s.freeCount).b := rfl
@[simp] theorem State.applyReset_cnt : s.applyReset.cnt = (Config.afterReset s.freeCount).cnt := rfl
@[simp] theorem State.applyReset_n : s.applyReset.n = (Config.afterReset s.freeCount).n := rfl
@[simp] theorem State.applyReset_v : s.applyReset.v = (Config.afterReset s.freeCount).v := rfl
@[simp] theorem State.applyReset_rem : s.applyReset.rem = (Config.afterReset s.freeCount).rem := rfl
@[simp] theorem State.applyReset_quo : s.applyReset.quo = (Config.afterReset s.freeCount).quo := rfl
@[simp] theorem State.applyReset_zdiv : s.applyReset.zdiv = (Config.afterReset s.freeCount).zdiv := rfl
@[simp] theorem State.applyReset_acc : s.applyReset.acc = (Config.afterReset s.freeCount).acc := rfl
@[simp] theorem State.applyReset_ma : s.applyReset.ma = (Config.afterReset s.freeCount).ma := rfl
@[simp] theorem State.applyReset_exp : s.applyReset.exp = (Config.afterReset s.freeCount).exp := rfl
@[simp] theorem State.applyReset_y : s.applyReset.y = (Config.afterReset s.freeCount).y := rfl
@[simp] theorem State.applyReset_y2 : s.applyReset.y2 = (Config.afterReset s.freeCount).y2 := rfl
@[simp] theorem State.applyReset_xy2 : s.applyReset.xy2 = (Config.afterReset s.freeCount).xy2 := rfl
@[simp] theorem State.applyReset_edge : s.applyReset.edge = (Config.afterReset s.freeCount).edge := rfl
@[simp] theorem State.applyReset_table : s.applyReset.table = s.table := rfl
@[simp] theorem State.applyReset_inputs : s.applyReset.inputs = s.inputs := rfl
@[simp] theorem State.applyReset_observed : s.applyReset.observed = s.observed := rfl
@[simp] theorem State.applyReset_freeCount : s.applyReset.freeCount = s.freeCount + 1 := rfl

/-! What every ACCEPT does (R195). -/

@[simp] theorem State.accept_r0 (o : Op) (x z : Word) : (s.accept o x z).r0 = none := rfl
@[simp] theorem State.accept_r1 (o : Op) (x z : Word) : (s.accept o x z).r1 = none := rfl
@[simp] theorem State.accept_busy (o : Op) (x z : Word) : (s.accept o x z).busy = true := rfl
@[simp] theorem State.accept_done (o : Op) (x z : Word) : (s.accept o x z).done = false := rfl
@[simp] theorem State.accept_illop (o : Op) (x z : Word) : (s.accept o x z).illop = false := rfl
@[simp] theorem State.accept_op (o : Op) (x z : Word) : (s.accept o x z).op = o.code := rfl
@[simp] theorem State.accept_a (o : Op) (x z : Word) : (s.accept o x z).a = x := rfl
@[simp] theorem State.accept_b (o : Op) (x z : Word) : (s.accept o x z).b = z := rfl
@[simp] theorem State.accept_cnt (o : Op) (x z : Word) : (s.accept o x z).cnt = 0 := rfl
@[simp] theorem State.accept_n (o : Op) (x z : Word) : (s.accept o x z).n = s.n := rfl
@[simp] theorem State.accept_v (o : Op) (x z : Word) : (s.accept o x z).v = s.v := rfl
@[simp] theorem State.accept_rem (o : Op) (x z : Word) : (s.accept o x z).rem = s.rem := rfl
@[simp] theorem State.accept_quo (o : Op) (x z : Word) : (s.accept o x z).quo = s.quo := rfl
@[simp] theorem State.accept_zdiv (o : Op) (x z : Word) : (s.accept o x z).zdiv = s.zdiv := rfl
@[simp] theorem State.accept_acc (o : Op) (x z : Word) : (s.accept o x z).acc = s.acc := rfl
@[simp] theorem State.accept_ma (o : Op) (x z : Word) : (s.accept o x z).ma = s.ma := rfl
@[simp] theorem State.accept_exp (o : Op) (x z : Word) : (s.accept o x z).exp = s.exp := rfl
@[simp] theorem State.accept_y (o : Op) (x z : Word) : (s.accept o x z).y = s.y := rfl
@[simp] theorem State.accept_y2 (o : Op) (x z : Word) : (s.accept o x z).y2 = s.y2 := rfl
@[simp] theorem State.accept_xy2 (o : Op) (x z : Word) : (s.accept o x z).xy2 = s.xy2 := rfl
@[simp] theorem State.accept_edge (o : Op) (x z : Word) : (s.accept o x z).edge = s.edge := rfl
@[simp] theorem State.accept_table (o : Op) (x z : Word) : (s.accept o x z).table = s.table := rfl
@[simp] theorem State.accept_inputs (o : Op) (x z : Word) : (s.accept o x z).inputs = s.inputs := rfl
@[simp] theorem State.accept_observed (o : Op) (x z : Word) : (s.accept o x z).observed = s.observed := rfl
@[simp] theorem State.accept_freeCount (o : Op) (x z : Word) : (s.accept o x z).freeCount = s.freeCount := rfl

/-! ACCEPT's part for CLZ. -/

@[simp] theorem State.clzLoad_r0 : s.clzLoad.r0 = s.r0 := rfl
@[simp] theorem State.clzLoad_r1 : s.clzLoad.r1 = s.r1 := rfl
@[simp] theorem State.clzLoad_busy : s.clzLoad.busy = s.busy := rfl
@[simp] theorem State.clzLoad_done : s.clzLoad.done = s.done := rfl
@[simp] theorem State.clzLoad_illop : s.clzLoad.illop = s.illop := rfl
@[simp] theorem State.clzLoad_op : s.clzLoad.op = s.op := rfl
@[simp] theorem State.clzLoad_a : s.clzLoad.a = s.a := rfl
@[simp] theorem State.clzLoad_b : s.clzLoad.b = s.b := rfl
@[simp] theorem State.clzLoad_cnt : s.clzLoad.cnt = s.cnt := rfl
@[simp] theorem State.clzLoad_n : s.clzLoad.n = 32 := rfl
@[simp] theorem State.clzLoad_v : s.clzLoad.v = s.a := rfl
@[simp] theorem State.clzLoad_rem : s.clzLoad.rem = s.rem := rfl
@[simp] theorem State.clzLoad_quo : s.clzLoad.quo = s.quo := rfl
@[simp] theorem State.clzLoad_zdiv : s.clzLoad.zdiv = s.zdiv := rfl
@[simp] theorem State.clzLoad_acc : s.clzLoad.acc = s.acc := rfl
@[simp] theorem State.clzLoad_ma : s.clzLoad.ma = s.ma := rfl
@[simp] theorem State.clzLoad_exp : s.clzLoad.exp = s.exp := rfl
@[simp] theorem State.clzLoad_y : s.clzLoad.y = s.y := rfl
@[simp] theorem State.clzLoad_y2 : s.clzLoad.y2 = s.y2 := rfl
@[simp] theorem State.clzLoad_xy2 : s.clzLoad.xy2 = s.xy2 := rfl
@[simp] theorem State.clzLoad_edge : s.clzLoad.edge = s.edge := rfl
@[simp] theorem State.clzLoad_table : s.clzLoad.table = s.table := rfl
@[simp] theorem State.clzLoad_inputs : s.clzLoad.inputs = s.inputs := rfl
@[simp] theorem State.clzLoad_observed : s.clzLoad.observed = s.observed := rfl
@[simp] theorem State.clzLoad_freeCount : s.clzLoad.freeCount = s.freeCount := rfl

/-! ACCEPT's part for DIVMOD. -/

@[simp] theorem State.divLoad_r0 : s.divLoad.r0 = s.r0 := rfl
@[simp] theorem State.divLoad_r1 : s.divLoad.r1 = s.r1 := rfl
@[simp] theorem State.divLoad_busy : s.divLoad.busy = s.busy := rfl
@[simp] theorem State.divLoad_done : s.divLoad.done = s.done := rfl
@[simp] theorem State.divLoad_illop : s.divLoad.illop = s.illop := rfl
@[simp] theorem State.divLoad_op : s.divLoad.op = s.op := rfl
@[simp] theorem State.divLoad_a : s.divLoad.a = s.a := rfl
@[simp] theorem State.divLoad_b : s.divLoad.b = s.b := rfl
@[simp] theorem State.divLoad_cnt : s.divLoad.cnt = s.cnt := rfl
@[simp] theorem State.divLoad_n : s.divLoad.n = s.n := rfl
@[simp] theorem State.divLoad_v : s.divLoad.v = s.v := rfl
@[simp] theorem State.divLoad_rem : s.divLoad.rem = 0 := rfl
@[simp] theorem State.divLoad_quo : s.divLoad.quo = 0 := rfl
@[simp] theorem State.divLoad_zdiv : s.divLoad.zdiv = (s.b == 0) := rfl
@[simp] theorem State.divLoad_acc : s.divLoad.acc = s.acc := rfl
@[simp] theorem State.divLoad_ma : s.divLoad.ma = s.ma := rfl
@[simp] theorem State.divLoad_exp : s.divLoad.exp = s.exp := rfl
@[simp] theorem State.divLoad_y : s.divLoad.y = s.y := rfl
@[simp] theorem State.divLoad_y2 : s.divLoad.y2 = s.y2 := rfl
@[simp] theorem State.divLoad_xy2 : s.divLoad.xy2 = s.xy2 := rfl
@[simp] theorem State.divLoad_edge : s.divLoad.edge = s.edge := rfl
@[simp] theorem State.divLoad_table : s.divLoad.table = s.table := rfl
@[simp] theorem State.divLoad_inputs : s.divLoad.inputs = s.inputs := rfl
@[simp] theorem State.divLoad_observed : s.divLoad.observed = s.observed := rfl
@[simp] theorem State.divLoad_freeCount : s.divLoad.freeCount = s.freeCount := rfl

/-! ACCEPT's part for MUL32. -/

@[simp] theorem State.mulLoad_r0 : s.mulLoad.r0 = s.r0 := rfl
@[simp] theorem State.mulLoad_r1 : s.mulLoad.r1 = s.r1 := rfl
@[simp] theorem State.mulLoad_busy : s.mulLoad.busy = s.busy := rfl
@[simp] theorem State.mulLoad_done : s.mulLoad.done = s.done := rfl
@[simp] theorem State.mulLoad_illop : s.mulLoad.illop = s.illop := rfl
@[simp] theorem State.mulLoad_op : s.mulLoad.op = s.op := rfl
@[simp] theorem State.mulLoad_a : s.mulLoad.a = s.a := rfl
@[simp] theorem State.mulLoad_b : s.mulLoad.b = s.b := rfl
@[simp] theorem State.mulLoad_cnt : s.mulLoad.cnt = s.cnt := rfl
@[simp] theorem State.mulLoad_n : s.mulLoad.n = s.n := rfl
@[simp] theorem State.mulLoad_v : s.mulLoad.v = s.v := rfl
@[simp] theorem State.mulLoad_rem : s.mulLoad.rem = s.rem := rfl
@[simp] theorem State.mulLoad_quo : s.mulLoad.quo = s.quo := rfl
@[simp] theorem State.mulLoad_zdiv : s.mulLoad.zdiv = s.zdiv := rfl
@[simp] theorem State.mulLoad_acc : s.mulLoad.acc = 0 := rfl
@[simp] theorem State.mulLoad_ma : s.mulLoad.ma = s.a := rfl
@[simp] theorem State.mulLoad_exp : s.mulLoad.exp = s.exp := rfl
@[simp] theorem State.mulLoad_y : s.mulLoad.y = s.y := rfl
@[simp] theorem State.mulLoad_y2 : s.mulLoad.y2 = s.y2 := rfl
@[simp] theorem State.mulLoad_xy2 : s.mulLoad.xy2 = s.xy2 := rfl
@[simp] theorem State.mulLoad_edge : s.mulLoad.edge = s.edge := rfl
@[simp] theorem State.mulLoad_table : s.mulLoad.table = s.table := rfl
@[simp] theorem State.mulLoad_inputs : s.mulLoad.inputs = s.inputs := rfl
@[simp] theorem State.mulLoad_observed : s.mulLoad.observed = s.observed := rfl
@[simp] theorem State.mulLoad_freeCount : s.mulLoad.freeCount = s.freeCount := rfl

/-! ACCEPT's part for RSQRT. -/

@[simp] theorem State.rsqrtLoad_r0 : s.rsqrtLoad.r0 = s.r0 := rfl
@[simp] theorem State.rsqrtLoad_r1 : s.rsqrtLoad.r1 = s.r1 := rfl
@[simp] theorem State.rsqrtLoad_busy : s.rsqrtLoad.busy = s.busy := rfl
@[simp] theorem State.rsqrtLoad_done : s.rsqrtLoad.done = s.done := rfl
@[simp] theorem State.rsqrtLoad_illop : s.rsqrtLoad.illop = s.illop := rfl
@[simp] theorem State.rsqrtLoad_op : s.rsqrtLoad.op = s.op := rfl
@[simp] theorem State.rsqrtLoad_a : s.rsqrtLoad.a = s.a := rfl
@[simp] theorem State.rsqrtLoad_b : s.rsqrtLoad.b = s.b := rfl
@[simp] theorem State.rsqrtLoad_cnt : s.rsqrtLoad.cnt = s.cnt := rfl
@[simp] theorem State.rsqrtLoad_n : s.rsqrtLoad.n = 32 := rfl
@[simp] theorem State.rsqrtLoad_v : s.rsqrtLoad.v = s.a := rfl
@[simp] theorem State.rsqrtLoad_rem : s.rsqrtLoad.rem = s.rem := rfl
@[simp] theorem State.rsqrtLoad_quo : s.rsqrtLoad.quo = s.quo := rfl
@[simp] theorem State.rsqrtLoad_zdiv : s.rsqrtLoad.zdiv = s.zdiv := rfl
@[simp] theorem State.rsqrtLoad_acc : s.rsqrtLoad.acc = s.acc := rfl
@[simp] theorem State.rsqrtLoad_ma : s.rsqrtLoad.ma = s.ma := rfl
@[simp] theorem State.rsqrtLoad_exp : s.rsqrtLoad.exp = 0 := rfl
@[simp] theorem State.rsqrtLoad_y : s.rsqrtLoad.y = 0 := rfl
@[simp] theorem State.rsqrtLoad_y2 : s.rsqrtLoad.y2 = 0 := rfl
@[simp] theorem State.rsqrtLoad_xy2 : s.rsqrtLoad.xy2 = 0 := rfl
@[simp] theorem State.rsqrtLoad_edge : s.rsqrtLoad.edge = .none := rfl
@[simp] theorem State.rsqrtLoad_table : s.rsqrtLoad.table = s.table := rfl
@[simp] theorem State.rsqrtLoad_inputs : s.rsqrtLoad.inputs = s.inputs := rfl
@[simp] theorem State.rsqrtLoad_observed : s.rsqrtLoad.observed = s.observed := rfl
@[simp] theorem State.rsqrtLoad_freeCount : s.rsqrtLoad.freeCount = s.freeCount := rfl

/-! Micro-step k of MUL32 (R121). -/

@[simp] theorem State.mulStep_r0 (k : Nat) : (s.mulStep k).r0 = s.r0 := rfl
@[simp] theorem State.mulStep_r1 (k : Nat) : (s.mulStep k).r1 = s.r1 := rfl
@[simp] theorem State.mulStep_busy (k : Nat) : (s.mulStep k).busy = s.busy := rfl
@[simp] theorem State.mulStep_done (k : Nat) : (s.mulStep k).done = s.done := rfl
@[simp] theorem State.mulStep_illop (k : Nat) : (s.mulStep k).illop = s.illop := rfl
@[simp] theorem State.mulStep_op (k : Nat) : (s.mulStep k).op = s.op := rfl
@[simp] theorem State.mulStep_a (k : Nat) : (s.mulStep k).a = s.a := rfl
@[simp] theorem State.mulStep_b (k : Nat) : (s.mulStep k).b = s.b := rfl
@[simp] theorem State.mulStep_cnt (k : Nat) : (s.mulStep k).cnt = s.cnt := rfl
@[simp] theorem State.mulStep_n (k : Nat) : (s.mulStep k).n = s.n := rfl
@[simp] theorem State.mulStep_v (k : Nat) : (s.mulStep k).v = s.v := rfl
@[simp] theorem State.mulStep_rem (k : Nat) : (s.mulStep k).rem = s.rem := rfl
@[simp] theorem State.mulStep_quo (k : Nat) : (s.mulStep k).quo = s.quo := rfl
@[simp] theorem State.mulStep_zdiv (k : Nat) : (s.mulStep k).zdiv = s.zdiv := rfl
@[simp] theorem State.mulStep_acc (k : Nat) : (s.mulStep k).acc = (if s.multiplierBit k then s.acc + s.ma else s.acc) := rfl
@[simp] theorem State.mulStep_ma (k : Nat) : (s.mulStep k).ma = s.ma <<< 1 := rfl
@[simp] theorem State.mulStep_exp (k : Nat) : (s.mulStep k).exp = s.exp := rfl
@[simp] theorem State.mulStep_y (k : Nat) : (s.mulStep k).y = s.y := rfl
@[simp] theorem State.mulStep_y2 (k : Nat) : (s.mulStep k).y2 = s.y2 := rfl
@[simp] theorem State.mulStep_xy2 (k : Nat) : (s.mulStep k).xy2 = s.xy2 := rfl
@[simp] theorem State.mulStep_edge (k : Nat) : (s.mulStep k).edge = s.edge := rfl
@[simp] theorem State.mulStep_table (k : Nat) : (s.mulStep k).table = s.table := rfl
@[simp] theorem State.mulStep_inputs (k : Nat) : (s.mulStep k).inputs = s.inputs := rfl
@[simp] theorem State.mulStep_observed (k : Nat) : (s.mulStep k).observed = s.observed := rfl
@[simp] theorem State.mulStep_freeCount (k : Nat) : (s.mulStep k).freeCount = s.freeCount := rfl

/-! S.cnt counts a micro-step (R196). -/

@[simp] theorem State.countStep_r0 : s.countStep.r0 = s.r0 := rfl
@[simp] theorem State.countStep_r1 : s.countStep.r1 = s.r1 := rfl
@[simp] theorem State.countStep_busy : s.countStep.busy = s.busy := rfl
@[simp] theorem State.countStep_done : s.countStep.done = s.done := rfl
@[simp] theorem State.countStep_illop : s.countStep.illop = s.illop := rfl
@[simp] theorem State.countStep_op : s.countStep.op = s.op := rfl
@[simp] theorem State.countStep_a : s.countStep.a = s.a := rfl
@[simp] theorem State.countStep_b : s.countStep.b = s.b := rfl
@[simp] theorem State.countStep_cnt : s.countStep.cnt = s.cnt + 1 := rfl
@[simp] theorem State.countStep_n : s.countStep.n = s.n := rfl
@[simp] theorem State.countStep_v : s.countStep.v = s.v := rfl
@[simp] theorem State.countStep_rem : s.countStep.rem = s.rem := rfl
@[simp] theorem State.countStep_quo : s.countStep.quo = s.quo := rfl
@[simp] theorem State.countStep_zdiv : s.countStep.zdiv = s.zdiv := rfl
@[simp] theorem State.countStep_acc : s.countStep.acc = s.acc := rfl
@[simp] theorem State.countStep_ma : s.countStep.ma = s.ma := rfl
@[simp] theorem State.countStep_exp : s.countStep.exp = s.exp := rfl
@[simp] theorem State.countStep_y : s.countStep.y = s.y := rfl
@[simp] theorem State.countStep_y2 : s.countStep.y2 = s.y2 := rfl
@[simp] theorem State.countStep_xy2 : s.countStep.xy2 = s.xy2 := rfl
@[simp] theorem State.countStep_edge : s.countStep.edge = s.edge := rfl
@[simp] theorem State.countStep_table : s.countStep.table = s.table := rfl
@[simp] theorem State.countStep_inputs : s.countStep.inputs = s.inputs := rfl
@[simp] theorem State.countStep_observed : s.countStep.observed = s.observed := rfl
@[simp] theorem State.countStep_freeCount : s.countStep.freeCount = s.freeCount := rfl

/-! COMPLETE (R197). -/

@[simp] theorem State.complete_r0 : s.complete.r0 = some s.results.1 := rfl
@[simp] theorem State.complete_r1 : s.complete.r1 = some s.results.2 := rfl
@[simp] theorem State.complete_busy : s.complete.busy = false := rfl
@[simp] theorem State.complete_done : s.complete.done = true := rfl
@[simp] theorem State.complete_illop : s.complete.illop = (Op.ofCode s.op).reserved := rfl
@[simp] theorem State.complete_op : s.complete.op = s.op := rfl
@[simp] theorem State.complete_a : s.complete.a = s.a := rfl
@[simp] theorem State.complete_b : s.complete.b = s.b := rfl
@[simp] theorem State.complete_cnt : s.complete.cnt = s.cnt := rfl
@[simp] theorem State.complete_n : s.complete.n = s.n := rfl
@[simp] theorem State.complete_v : s.complete.v = s.v := rfl
@[simp] theorem State.complete_rem : s.complete.rem = s.rem := rfl
@[simp] theorem State.complete_quo : s.complete.quo = s.quo := rfl
@[simp] theorem State.complete_zdiv : s.complete.zdiv = s.zdiv := rfl
@[simp] theorem State.complete_acc : s.complete.acc = s.acc := rfl
@[simp] theorem State.complete_ma : s.complete.ma = s.ma := rfl
@[simp] theorem State.complete_exp : s.complete.exp = s.exp := rfl
@[simp] theorem State.complete_y : s.complete.y = s.y := rfl
@[simp] theorem State.complete_y2 : s.complete.y2 = s.y2 := rfl
@[simp] theorem State.complete_xy2 : s.complete.xy2 = s.xy2 := rfl
@[simp] theorem State.complete_edge : s.complete.edge = s.edge := rfl
@[simp] theorem State.complete_table : s.complete.table = s.table := rfl
@[simp] theorem State.complete_inputs : s.complete.inputs = s.inputs := rfl
@[simp] theorem State.complete_observed : s.complete.observed = s.observed := rfl
@[simp] theorem State.complete_freeCount : s.complete.freeCount = s.freeCount := rfl

end Sys2Proof.Machine
end

