-- ==== Sys2Proof/Laws/Datapath.lean ====
section
/-!
SUPPORT. What a micro-step of each datapath does: the registers it leaves alone, and the progress it makes.
-/
namespace Sys2Proof.Machine

/-- `t` holds what `s` holds outside the working registers that some micro-step writes. -/
structure SameControl (s t : State) : Prop where
  r0 : t.r0 = s.r0
  r1 : t.r1 = s.r1
  busy : t.busy = s.busy
  done : t.done = s.done
  illop : t.illop = s.illop
  op : t.op = s.op
  a : t.a = s.a
  b : t.b = s.b
  cnt : t.cnt = s.cnt
  zdiv : t.zdiv = s.zdiv
  table : t.table = s.table
  inputs : t.inputs = s.inputs
  observed : t.observed = s.observed
  freeCount : t.freeCount = s.freeCount

theorem SameControl.refl (s : State) : SameControl s s := by constructor <;> rfl

/-! ### CLZ -/

theorem clzStep_cases (k : Nat) (s : State) :
    (s.v >>> clzShift k ≠ 0 ∧ s.clzStep k = { s with n := s.n - BitVec.ofNat 6 (clzShift k), v := s.v >>> clzShift k }) ∨
    (s.v >>> clzShift k = 0 ∧ s.clzStep k = s) := by
  by_cases h : s.v >>> clzShift k = 0
  · exact .inr ⟨h, if_neg (not_not.2 h)⟩
  · exact .inl ⟨h, if_pos h⟩

theorem clzStep_control (k : Nat) (s : State) : SameControl s (s.clzStep k) := by
  obtain ⟨-, h⟩ | ⟨-, h⟩ := clzStep_cases k s <;> rw [h] <;> constructor <;> rfl

/-- CLZ's micro-step writes `S.n` and `S.v` only (R31, R102). -/
theorem clzStep_frame (k : Nat) (s : State) :
    s.clzStep k = { s with n := (s.clzStep k).n, v := (s.clzStep k).v } := by
  obtain ⟨-, h⟩ | ⟨-, h⟩ := clzStep_cases k s <;> rw [h]

/-- The window shrinks by half at each micro-step (the reason of R103). -/
theorem clzStep_progress {x : Word} {k : Nat} {s : State} (hk : k < 5) (h : ClzProgress x k s) :
    ClzProgress x (k + 1) (s.clzStep k) := by
  obtain ⟨hn, hw, hlt, hz, hzc⟩ := h
  have hx := x.isLt
  have hwin : 32 >>> k = clzShift k + clzShift k ∧ 32 >>> (k + 1) = clzShift k ∧ clzShift k ≤ 16 := by
    interval_cases k <;> decide
  generalize hc : clzShift k = c at *
  obtain ⟨h2, h1, h16⟩ := hwin
  have hshift : (s.v >>> c).toNat = s.v.toNat / 2 ^ c := by simp [BitVec.toNat_ushiftRight, Nat.shiftRight_eq_div_pow]
  have hcases := clzStep_cases k s
  rw [hc] at hcases
  obtain ⟨ht, he⟩ | ⟨ht, he⟩ := hcases
  · have hge : 2 ^ c ≤ s.v.toNat := by
      by_contra hlt'
      exact ht (BitVec.eq_of_toNat_eq (by rw [hshift, Nat.div_eq_of_lt (by omega)]; rfl))
    have hvn : s.v.toNat < 2 ^ s.n.toNat := by
      rw [hw, Nat.div_lt_iff_lt_mul (by positivity), ← pow_add, Nat.add_sub_cancel' hn]; exact hx
    have hcn : c < s.n.toNat := (Nat.pow_lt_pow_iff_right (by norm_num)).1 (lt_of_le_of_lt hge hvn)
    have hn' : (s.n - BitVec.ofNat 6 c).toNat = s.n.toNat - c := by
      have := s.n.isLt
      rw [BitVec.toNat_sub, BitVec.toNat_ofNat]; omega
    rw [he]
    refine ⟨by simp only [hn']; omega, ?_, ?_, ?_, ?_⟩
    · simp only [hn', hshift, hw]
      rw [Nat.div_div_eq_div_mul, ← pow_add]
      congr 2; omega
    · simp only [hshift, h1]
      rw [Nat.div_lt_iff_lt_mul (by positivity), ← pow_add, ← h2]; exact hlt
    · have : x ≠ 0 := fun h0 => ht (by rw [hz.2 h0]; simp)
      exact iff_of_false ht this
    · intro h0
      exact absurd (by rw [hz.2 h0]; simp) ht
  · rw [he]
    refine ⟨hn, hw, ?_, hz, hzc⟩
    rw [h1]
    by_contra hge
    have : (s.v >>> c).toNat = 0 := by rw [ht]; rfl
    rw [hshift] at this
    have := Nat.div_pos (not_lt.1 hge) (Nat.two_pow_pos c)
    omega

/-- The load of an acceptance starts the search (R103). -/
theorem clzLoad_progress (s : State) : ClzProgress s.a 0 s.clzLoad := by
  refine ⟨by simp, by simp, by simpa using s.a.isLt, by simp, by simp⟩

/-- After the five micro-steps the count is right (R103). -/
theorem clzCount_of_progress {x : Word} {s : State} (h : ClzProgress x 5 s) :
    s.clzCount.toNat = clz32 x ∧ (x ≠ 0 → s.v = 1) := by
  obtain ⟨hn, hw, hlt, hz, hzc⟩ := h
  by_cases hx : x = 0
  · rw [State.clzCount, hzc hx, hz.2 hx, clz32, if_pos hx]
    exact ⟨rfl, fun h => absurd hx h⟩
  · have hlt2 : s.v.toNat < 2 := hlt
    have hv0 : s.v.toNat ≠ 0 := fun h0 => hx (hz.1 (BitVec.eq_of_toNat_eq h0))
    have hv : s.v.toNat = 1 := by omega
    rw [hv] at hw
    have hlog : x.toNat.log2 = 32 - s.n.toNat := by
      have hpos := Nat.two_pow_pos (32 - s.n.toNat)
      refine (Nat.log2_eq_iff (fun h0 => hx (BitVec.eq_of_toNat_eq h0))).2 ⟨?_, ?_⟩
      · exact Nat.one_mul (2 ^ (32 - s.n.toNat)) ▸ (Nat.le_div_iff_mul_le hpos).1 hw.le
      · rw [pow_succ, Nat.mul_comm]
        exact (Nat.div_lt_iff_lt_mul hpos).1 (by omega)
    have hn1 : 1 ≤ s.n.toNat := by
      by_contra h0
      have h32 : s.n.toNat = 0 := by omega
      rw [h32, Nat.div_eq_of_lt x.isLt] at hw; omega
    refine ⟨?_, fun _ => BitVec.eq_of_toNat_eq hv⟩
    have hw32 : (s.n.setWidth 32).toNat = s.n.toNat := by rw [BitVec.toNat_setWidth]; omega
    rw [State.clzCount, BitVec.toNat_sub, hw32, hv, clz32, if_neg hx, hlog]
    omega

/-! ### DIVMOD -/

/-- The shifted remainder is exact (R112). -/
theorem divShifted_toNat (k : Nat) (s : State) :
    (s.divShifted k).toNat = 2 * s.rem.toNat + (s.dividendBit k).toNat := by
  rw [State.divShifted, BitVec.toNat_append, BitVec.toNat_ofBool, Nat.shiftLeft_eq]
  cases s.dividendBit k
  · simp [Nat.mul_comm]
  · have := Nat.two_pow_add_eq_or_of_lt (i := 1) (b := 1) (by omega) s.rem.toNat
    simp only [Bool.toNat_true, pow_one] at *
    rw [Nat.mul_comm, ← this]

theorem divStep_cases (k : Nat) (s : State) :
    (s.b.toNat ≤ (s.divShifted k).toNat ∧ s.divStep k = { s with
      rem := BitVec.ofNat 32 ((s.divShifted k).toNat - s.b.toNat), quo := s.quo ||| (1#32 <<< (31 - k)) }) ∨
    ((s.divShifted k).toNat < s.b.toNat ∧ s.divStep k = { s with rem := BitVec.ofNat 32 (s.divShifted k).toNat }) := by
  have hb : (s.b.setWidth 33).toNat = s.b.toNat := by
    have := s.b.isLt
    rw [BitVec.toNat_setWidth]; omega
  by_cases h : s.b.setWidth 33 ≤ s.divShifted k
  · have h' : s.b.toNat ≤ (s.divShifted k).toNat := by rw [← hb]; exact h
    refine .inl ⟨h', ?_⟩
    have : (s.divShifted k - s.b.setWidth 33).setWidth 32 = BitVec.ofNat 32 ((s.divShifted k).toNat - s.b.toNat) := by
      apply BitVec.eq_of_toNat_eq
      rw [BitVec.toNat_setWidth, BitVec.toNat_sub_of_le h, hb, BitVec.toNat_ofNat]
    simp only [State.divStep, if_pos h, this]
  · have h' : (s.divShifted k).toNat < s.b.toNat := by rw [← hb]; exact not_le.1 h
    refine .inr ⟨h', ?_⟩
    have : (s.divShifted k).setWidth 32 = BitVec.ofNat 32 (s.divShifted k).toNat := by
      apply BitVec.eq_of_toNat_eq
      rw [BitVec.toNat_setWidth, BitVec.toNat_ofNat]
    simp only [State.divStep, if_neg h, this]

theorem divStep_control (k : Nat) (s : State) : SameControl s (s.divStep k) := by
  obtain ⟨-, h⟩ | ⟨-, h⟩ := divStep_cases k s <;> rw [h] <;> constructor <;> rfl

/-- DIVMOD's micro-step writes `S.rem` and `S.quo` only (R32, R112). -/
theorem divStep_frame (k : Nat) (s : State) :
    s.divStep k = { s with rem := (s.divStep k).rem, quo := (s.divStep k).quo } := by
  obtain ⟨-, h⟩ | ⟨-, h⟩ := divStep_cases k s <;> rw [h]

/-! ### MUL32 -/

theorem mulStep_control (k : Nat) (s : State) : SameControl s (s.mulStep k) := by constructor <;> rfl

/-! ### RSQRT -/

theorem unlessEdge_cases (s t : State) : (s.edge = .none ∧ s.unlessEdge t = t) ∨ (s.edge ≠ .none ∧ s.unlessEdge t = s) := by
  by_cases h : s.edge = .none
  · exact .inl ⟨h, if_pos h⟩
  · exact .inr ⟨h, if_neg h⟩

theorem rsqrtSeed_cases (tbl : Config.Table) (s : State) :
    (s.a = 0 ∧ s.rsqrtSeed tbl = { s with edge := .zero }) ∨
    (s.a = 1 ∧ s.rsqrtSeed tbl = { s with edge := .one }) ∨
    (s.a ≠ 0 ∧ s.a ≠ 1 ∧ s.rsqrtSeed tbl =
      { s with exp := (31 - s.clzCount).setWidth 5, y := tbl.get ((31 - s.clzCount).setWidth 5 : BitVec 5).toFin }) := by
  by_cases h0 : s.a = 0
  · exact .inl ⟨h0, if_pos h0⟩
  by_cases h1 : s.a = 1
  · exact .inr (.inl ⟨h1, (if_neg h0).trans (if_pos h1)⟩)
  · exact .inr (.inr ⟨h0, h1, (if_neg h0).trans (if_neg h1)⟩)

/-- RSQRT's micro-step leaves the registers of the other iterative datapaths alone. -/
structure SameOther (s t : State) : Prop extends SameControl s t where
  rem : t.rem = s.rem
  quo : t.quo = s.quo
  acc : t.acc = s.acc
  ma : t.ma = s.ma

theorem unlessEdge_other {s t : State} (h : SameOther s t) : SameOther s (s.unlessEdge t) := by
  obtain ⟨-, he⟩ | ⟨-, he⟩ := unlessEdge_cases s t
  · rwa [he]
  · rw [he]; exact { SameControl.refl s with rem := rfl, quo := rfl, acc := rfl, ma := rfl }

theorem rsqrtSeed_other (tbl : Config.Table) (s : State) : SameOther s (s.rsqrtSeed tbl) := by
  obtain ⟨-, h⟩ | ⟨-, h⟩ | ⟨-, -, h⟩ := rsqrtSeed_cases tbl s <;> rw [h] <;> constructor <;> first | rfl | constructor <;> rfl

/-- RSQRT's micro-step writes the CLZ and the RSQRT working registers only (R34, R150). -/
theorem rsqrtStep_other (tbl : Config.Table) (k : Nat) (s : State) : SameOther s (s.rsqrtStep tbl k) := by
  have hclz : ∀ j, SameOther s (s.clzStep j) := fun j =>
    { clzStep_control j s with
      rem := by rw [clzStep_frame], quo := by rw [clzStep_frame], acc := by rw [clzStep_frame], ma := by rw [clzStep_frame] }
  have hself : SameOther s s := { SameControl.refl s with rem := rfl, quo := rfl, acc := rfl, ma := rfl }
  unfold State.rsqrtStep
  split <;> first
    | exact hclz _
    | exact rsqrtSeed_other tbl s
    | exact hself
    | exact unlessEdge_other (by constructor <;> first | rfl | constructor <;> rfl)

end Sys2Proof.Machine
end

