-- ==== Sys2Proof/Laws/Exec.lean ====
section
/-!
SUPPORT. What the unit's events can do, said once: the datapath, a micro-step, an instruction's meaning, and one step.
-/
namespace Sys2Proof.Machine

/-! ### Operation codes -/

@[simp] theorem ofCode_code (o : Op) : Op.ofCode o.code = o := by cases o <;> rfl

theorem code_ofCode (c : BitVec 3) : (Op.ofCode c).code = c := by
  revert c; decide

theorem lat_pos (o : Op) : 0 < lat o := by cases o <;> decide

theorem lat_le (o : Op) : lat o ≤ 32 := by cases o <;> decide

/-! ### A micro-step -/

/-- The datapath changes working registers only. -/
theorem datapath_control (s : State) : SameControl s s.datapath := by
  unfold State.datapath
  split <;> first
    | exact clzStep_control _ s
    | exact divStep_control _ s
    | exact mulStep_control _ s
    | exact (rsqrtStep_other _ _ s).toSameControl
    | exact SameControl.refl s

/-- A micro-step counts, and completes exactly when the count reaches LAT (R196). -/
theorem microstep_cases (s : State) :
    ((s.cnt + 1).toNat = lat (Op.ofCode s.op) ∧ s.microstep = s.datapath.countStep.complete) ∨
    ((s.cnt + 1).toNat ≠ lat (Op.ofCode s.op) ∧ s.microstep = s.datapath.countStep) := by
  have h := datapath_control s
  have hat : s.datapath.countStep.atLat = decide ((s.cnt + 1).toNat = lat (Op.ofCode s.op)) := by
    simp only [State.atLat, State.countStep_cnt, State.countStep_op, h.cnt, h.op]
    rw [beq_eq_decide]
  by_cases hl : (s.cnt + 1).toNat = lat (Op.ofCode s.op)
  · exact .inl ⟨hl, if_pos (by rw [hat]; simpa using hl)⟩
  · exact .inr ⟨hl, if_neg (by rw [hat]; simpa using hl)⟩

/-- What every micro-step leaves alone. -/
structure SameLatch (s t : State) : Prop where
  op : t.op = s.op
  a : t.a = s.a
  b : t.b = s.b
  zdiv : t.zdiv = s.zdiv
  table : t.table = s.table
  inputs : t.inputs = s.inputs
  observed : t.observed = s.observed
  freeCount : t.freeCount = s.freeCount

theorem microstep_latch (s : State) : SameLatch s s.microstep ∧ s.microstep.cnt = s.cnt + 1 := by
  have h := datapath_control s
  obtain ⟨-, hm⟩ | ⟨-, hm⟩ := microstep_cases s <;> rw [hm] <;>
    exact ⟨⟨h.op, h.a, h.b, h.zdiv, h.table, h.inputs, h.observed, h.freeCount⟩, by simp [h.cnt]⟩

/-! ### An instruction's meaning -/

/-- What an idle unit's acceptance of an instruction gives (R195). -/
def State.accepted (i : Instr) (s : State) : State :=
  match i with
  | .clz a b => (s.accept .clz a b).clzLoad
  | .divmod a b => (s.accept .divmod a b).divLoad
  | .mul32 a b => (s.accept .mul32 a b).mulLoad
  | .mulw a b => s.accept .mulw a b
  | .rsqrt a b => (s.accept .rsqrt a b).rsqrtLoad
  | .op5 a b => s.accept .op5 a b
  | .op6 a b => s.accept .op6 a b
  | .op7 a b => s.accept .op7 a b

/-- A busy unit makes a micro-step, whichever request stands at its inputs (R194, R196). -/
theorem exec_busy {s : State} (h : s.busy = true) (i : Instr) : exec i s = .next s.microstep := by
  cases i <;>
    simp [exec, execClz, execDivmod, execMul32, execMulw, execRsqrt, execOp5, execOp6, execOp7, State.whenOffered, h]

/-- An idle unit accepts the request (R194, R195). -/
theorem exec_idle {s : State} (h : s.busy = false) (i : Instr) : exec i s = .next (s.accepted i) := by
  cases i <;>
    simp [exec, execClz, execDivmod, execMul32, execMulw, execRsqrt, execOp5, execOp6, execOp7, State.whenOffered, h,
      State.accepted]

/-- What every acceptance writes and leaves alone (R195). -/
theorem accepted_spec (i : Instr) (s : State) :
    InFlight (s.accepted i) ∧ (s.accepted i).op = i.op.code ∧ (s.accepted i).a = i.a ∧ (s.accepted i).b = i.b ∧
    (s.accepted i).cnt = 0 ∧ (s.accepted i).table = s.table ∧ (s.accepted i).inputs = s.inputs ∧ (s.accepted i).observed = s.observed ∧
    (s.accepted i).freeCount = s.freeCount := by
  cases i <;> exact ⟨⟨rfl, rfl, rfl, rfl, rfl⟩, rfl, rfl, rfl, rfl, rfl, rfl, rfl, rfl⟩

/-! ### One step -/

/-- Everything a step that answers a next state can have done (R193): with every read finding a value, a RESET; else a
micro-step of a busy unit, the acceptance of the request offered to an idle one, or nothing of the unit. -/
theorem step_cases {s t : State} (h : step s = .next t) :
    s.noValueRead s.ports.reads = none ∧
    ((s.ports.rst = true ∧ t = s.takeInputs.applyReset) ∨
     (s.ports.rst = false ∧ s.busy = true ∧ t = s.takeInputs.microstep) ∨
     (s.ports.rst = false ∧ s.busy = false ∧ (∃ r, s.ports.req = some r ∧ t = s.takeInputs.accepted (decode r.word))) ∨
     (s.ports.rst = false ∧ s.busy = false ∧ s.ports.req = none ∧ t = s.takeInputs)) := by
  unfold step at h
  cases hr : s.noValueRead s.ports.reads with
  | some r => simp [hr] at h
  | none =>
    refine ⟨rfl, ?_⟩
    simp only [hr] at h
    cases hrst : s.ports.rst with
    | true => simp only [hrst, if_true] at h; exact .inl ⟨rfl, (Host.Outcome.next.inj h).symm⟩
    | false =>
      simp only [hrst, Bool.false_eq_true, if_false, State.currentInstr] at h
      cases hb : s.busy with
      | true =>
        simp only [hb, if_true] at h
        rw [exec_busy (by simpa using hb)] at h
        exact .inr (.inl ⟨rfl, rfl, (Host.Outcome.next.inj h).symm⟩)
      | false =>
        simp only [hb, Bool.false_eq_true, if_false] at h
        cases hq : s.ports.req with
        | none =>
          simp only [hq, Option.map_none] at h
          exact .inr (.inr (.inr ⟨rfl, rfl, rfl, (Host.Outcome.next.inj h).symm⟩))
        | some r =>
          simp only [hq, Option.map_some] at h
          rw [exec_idle (by simpa using hb)] at h
          exact .inr (.inr (.inl ⟨rfl, rfl, r, rfl, (Host.Outcome.next.inj h).symm⟩))

end Sys2Proof.Machine
end

