-- ==== Sys2Proof/Laws/PerInstr.lean ====
section
/-!
SUPPORT. Facts stated instruction by instruction. The family OpcodeField: the request word carries the instruction's operation code in
bits 66 to 64, the instruction is well formed, and taking it apart into its operation and operands loses nothing (30_encoding.md R70 to R73).
-/
namespace Sys2Proof

theorem reqOp_append (c : BitVec 3) (b a : Word) : reqOp (c ++ b ++ a) = c := by
  apply BitVec.eq_of_getLsbD_eq
  intro i hi
  have : ¬ 64 + i < 32 := by omega
  have h2 : ¬ 64 + i - 32 < 32 := by omega
  simp only [reqOp, BitVec.getLsbD_extractLsb', BitVec.getLsbD_append, hi, this, h2, decide_true, Bool.true_and, if_false]
  congr 1; omega

theorem reqB_append (c : BitVec 3) (b a : Word) : reqB (c ++ b ++ a) = b := by
  apply BitVec.eq_of_getLsbD_eq
  intro i hi
  have : ¬ 32 + i < 32 := by omega
  have h2 : 32 + i - 32 < 32 := by omega
  simp only [reqB, BitVec.getLsbD_extractLsb', BitVec.getLsbD_append, hi, this, h2, decide_true, Bool.true_and, if_false,
    if_true]
  congr 1; omega

theorem reqA_append (c : BitVec 3) (b a : Word) : reqA (c ++ b ++ a) = a := by
  apply BitVec.eq_of_getLsbD_eq
  intro i hi
  have : 0 + i < 32 := by omega
  simp only [reqA, BitVec.getLsbD_extractLsb', BitVec.getLsbD_append, hi, this, decide_true, Bool.true_and, if_true]
  congr 1; omega

namespace Laws.OpcodeField

/-- The code in the word, well-formedness, and the parts. -/
def Statement (i : Instr) : Prop :=
  reqOp (encode i) = i.op.code ∧ i.wellFormed = true ∧ Instr.make i.op i.a i.b = i

theorem clz (a b : Word) : Statement (.clz a b) := ⟨reqOp_append _ _ _, rfl, rfl⟩
theorem divmod (a b : Word) : Statement (.divmod a b) := ⟨reqOp_append _ _ _, rfl, rfl⟩
theorem mul32 (a b : Word) : Statement (.mul32 a b) := ⟨reqOp_append _ _ _, rfl, rfl⟩
theorem mulw (a b : Word) : Statement (.mulw a b) := ⟨reqOp_append _ _ _, rfl, rfl⟩
theorem rsqrt (a b : Word) : Statement (.rsqrt a b) := ⟨reqOp_append _ _ _, rfl, rfl⟩
theorem op5 (a b : Word) : Statement (.op5 a b) := ⟨reqOp_append _ _ _, rfl, rfl⟩
theorem op6 (a b : Word) : Statement (.op6 a b) := ⟨reqOp_append _ _ _, rfl, rfl⟩
theorem op7 (a b : Word) : Statement (.op7 a b) := ⟨reqOp_append _ _ _, rfl, rfl⟩

end Laws.OpcodeField
end Sys2Proof
end

