-- ==== Sys2Proof/Laws/Progress.lean ====
section
/-!
SUPPORT. The progress that micro-steps of DIVMOD, MUL32 and RSQRT make (the inductive steps behind R113, R114, R122 and R150).
-/
namespace Sys2Proof.Machine

/-! ### DIVMOD -/

/-- The top k+1 bits of a word are its top k bits followed by bit 31 − k. -/
theorem top_bits_succ (a : Word) {k : Nat} (hk : k < 32) :
    a.toNat / 2 ^ (32 - (k + 1)) = 2 * (a.toNat / 2 ^ (32 - k)) + (a.getLsbD (31 - k)).toNat := by
  have h1 : 32 - (k + 1) = 31 - k := by omega
  have h2 : 32 - k = 31 - k + 1 := by omega
  rw [h1, h2, pow_succ, ← Nat.div_div_eq_div_mul, BitVec.getLsbD, Nat.testBit_eq_decide_div_mod_eq]
  have := Nat.mod_two_eq_zero_or_one (a.toNat / 2 ^ (31 - k))
  rcases this with h | h <;> simp [h] <;> omega

theorem divLoad_progress (s : State) : DivProgress 0 s.divLoad := by
  have ha := s.a.isLt
  have h0 : s.a.toNat / 4294967296 = 0 := by omega
  refine ⟨by simp, by simp, ?_, ?_, ?_, ?_⟩ <;> intro _ <;> simp [h0]

/-- Setting a bit above which nothing is lost: the quotient's new bit is added (R112, R114). -/
theorem setBit_toNat {q : Word} {j m : Nat} (hj : j ≤ 31) (hq : q.toNat = m * 2 ^ (j + 1)) :
    (q ||| (1#32 <<< j)).toNat = (2 * m + 1) * 2 ^ j := by
  have hone : (1#32 <<< j).toNat = 2 ^ j := by
    rw [BitVec.toNat_shiftLeft, Nat.shiftLeft_eq]
    simp only [BitVec.toNat_ofNat]
    rw [show 1 % 2 ^ 32 = 1 from rfl, one_mul]
    exact Nat.mod_eq_of_lt (Nat.pow_lt_pow_right (by norm_num) (by omega))
  rw [BitVec.toNat_or, hone, hq]
  have := Nat.two_pow_add_eq_or_of_lt (i := j + 1) (b := 2 ^ j) (Nat.pow_lt_pow_right (by norm_num) (by omega)) m
  rw [Nat.mul_comm m, ← this]
  ring

/-- DIVMOD's micro-step `k` keeps the divider's progress (the inductive step of R113 and R114). -/
theorem divStep_progress {k : Nat} {s : State} (hk : k < 32) (h : DivProgress k s) :
    DivProgress (k + 1) (s.divStep k) := by
  obtain ⟨hz, hlt, hrem, hquo, hzr, hzq⟩ := h
  have htop := top_bits_succ s.a hk
  have hr := divShifted_toNat k s
  rw [State.dividendBit] at hr
  have hj : 32 - k = 32 - (k + 1) + 1 := by omega
  have h31 : 31 - k = 32 - (k + 1) := by omega
  generalize hbit : (s.a.getLsbD (31 - k)).toNat = d at *
  have hd : d ≤ 1 := by subst hbit; exact Bool.toNat_le _
  generalize hP : s.a.toNat / 2 ^ (32 - k) = P at *
  generalize hP' : s.a.toNat / 2 ^ (32 - (k + 1)) = P' at *
  generalize hR : (s.divShifted k).toNat = R at *
  have hR2 : R < 2 ^ (k + 1) := by rw [pow_succ]; omega
  have hR32 : R < 2 ^ 32 := lt_of_lt_of_le hR2 (Nat.pow_le_pow_right (by norm_num) (by omega))
  -- for b ≠ 0, R is P' less the part of it already divided off
  have hdivmod : s.b ≠ 0 → P' = R + s.b.toNat * (2 * (P / s.b.toNat)) := by
    intro hb
    have := Nat.div_add_mod P s.b.toNat
    rw [← hrem hb] at this
    rw [htop, hr, ← this]; ring_nf
    rw [show (s.b.toNat * (P / s.b.toNat) + s.rem.toNat) / s.b.toNat = P / s.b.toNat by rw [this]]
  have hRb : s.b ≠ 0 → R < 2 * s.b.toNat := by
    intro hb
    have hb0 : 0 < s.b.toNat := Nat.pos_of_ne_zero fun h0 => hb (BitVec.eq_of_toNat_eq h0)
    have := Nat.mod_lt P hb0
    rw [← hrem hb] at this; omega
  have hcases := divStep_cases k s
  rw [hR] at hcases
  obtain ⟨hge, he⟩ | ⟨hltb, he⟩ := hcases
  · have hsub : (BitVec.ofNat 32 (R - s.b.toNat)).toNat = R - s.b.toNat := by
      rw [BitVec.toNat_ofNat]; exact Nat.mod_eq_of_lt (by omega)
    rw [he]
    refine ⟨hz, ?_, ?_, ?_, ?_, ?_⟩
    · simp only [hsub]; omega
    · intro hb
      have hP2 : P' = (R - s.b.toNat) + s.b.toNat * (2 * (P / s.b.toNat) + 1) := by
        rw [hdivmod hb, Nat.mul_add, Nat.mul_one]; omega
      simp only [hsub, hP']
      rw [hP2, Nat.add_mul_mod_self_left]
      exact (Nat.mod_eq_of_lt (by have := hRb hb; omega)).symm
    · intro hb
      have hb0 : 0 < s.b.toNat := Nat.pos_of_ne_zero fun h0 => hb (BitVec.eq_of_toNat_eq h0)
      have hP2 : P' = (R - s.b.toNat) + s.b.toNat * (2 * (P / s.b.toNat) + 1) := by
        rw [hdivmod hb, Nat.mul_add, Nat.mul_one]; omega
      have hq := hquo hb
      rw [hj] at hq
      simp only [hP']
      rw [h31, setBit_toNat (by omega) hq, hP2, Nat.add_mul_div_left _ _ hb0,
        Nat.div_eq_of_lt (show R - s.b.toNat < s.b.toNat by have := hRb hb; omega), Nat.zero_add]
    · intro hb
      have : s.b.toNat = 0 := by rw [hb]; rfl
      simp only [hsub, hP']
      rw [this, htop, hr, hzr hb]; omega
    · intro hb
      have hq := hzq hb
      rw [hj] at hq
      rw [h31]
      simp only
      rw [setBit_toNat (by omega) hq]
      congr 1
      have := Nat.two_pow_pos k
      rw [pow_succ]; omega
  · have hR' : (BitVec.ofNat 32 R).toNat = R := by rw [BitVec.toNat_ofNat]; exact Nat.mod_eq_of_lt hR32
    have hb : s.b ≠ 0 := fun h0 => by rw [h0] at hltb; simp at hltb
    have hb0 : 0 < s.b.toNat := Nat.pos_of_ne_zero fun h0 => hb (BitVec.eq_of_toNat_eq h0)
    rw [he]
    refine ⟨hz, by simp only [hR']; exact hR2, ?_, ?_, fun h0 => absurd h0 hb, fun h0 => absurd h0 hb⟩
    · intro _
      simp only [hR', hP']
      rw [hdivmod hb, Nat.add_mul_mod_self_left]
      exact (Nat.mod_eq_of_lt hltb).symm
    · intro _
      have hq := hquo hb
      simp only [hP']
      rw [hdivmod hb, Nat.add_mul_div_left _ _ hb0, Nat.div_eq_of_lt hltb, hq, hj, pow_succ]; ring

/-! ### MUL32 -/

theorem mulLoad_progress (s : State) : MulProgress 0 s.mulLoad := by
  refine ⟨?_, ?_⟩
  · simp [Nat.mod_eq_of_lt s.a.isLt]
  · simp [Nat.mod_one]

/-- MUL32's micro-step `k` keeps the multiplier's progress (the inductive step of R122). -/
theorem mulStep_progress {k : Nat} {s : State} (h : MulProgress k s) : MulProgress (k + 1) (s.mulStep k) := by
  obtain ⟨hm, hp⟩ := h
  refine ⟨?_, ?_⟩
  · simp only [State.mulStep_ma, State.mulStep_a, BitVec.toNat_shiftLeft, Nat.shiftLeft_eq, hm, pow_one]
    rw [Nat.mod_mul_mod, pow_succ]; ring_nf
  · have hbit : s.b.toNat % 2 ^ (k + 1) = s.b.toNat % 2 ^ k + 2 ^ k * (s.multiplierBit k).toNat := by
      rw [State.multiplierBit, BitVec.getLsbD, Nat.mod_pow_succ, Nat.testBit_eq_decide_div_mod_eq]
      rcases Nat.mod_two_eq_zero_or_one (s.b.toNat / 2 ^ k) with h | h <;> simp [h]
    simp only [State.mulStep_acc, State.mulStep_a, State.mulStep_b, hbit]
    cases s.multiplierBit k
    · simp [hp]
    · simp only [Bool.toNat_true, if_true, BitVec.toNat_add, hm, hp, Nat.mul_one, Nat.mul_add]
      rw [← Nat.add_mod]

/-! ### RSQRT -/

theorem clz32_le (x : Word) (hx : x ≠ 0) : clz32 x ≤ 31 := by
  rw [clz32, if_neg hx]; omega

/-- The exponent that SEED computes from the count (R150) is the index of the highest set bit (R144). -/
theorem seedExponent {s : State} (hx : s.a ≠ 0) (h : ClzProgress s.a 5 s) :
    (31 - s.clzCount).setWidth 5 = highestBit s.a := by
  have hc := (clzCount_of_progress h).1
  have hle := clz32_le s.a hx
  apply BitVec.eq_of_toNat_eq
  rw [highestBit, BitVec.toNat_setWidth, BitVec.toNat_ofNat, BitVec.toNat_sub_of_le, hc]
  · rfl
  · rw [BitVec.le_def, hc]; exact hle

theorem rsqrtEstimate_seed (tbl : Config.Table) (x : Word) {k : Nat} (h : k ≤ 6) :
    rsqrtEstimate tbl x k = tbl.get (highestBit x).toFin := if_pos h

theorem rsqrtEstimate_seeded (tbl : Config.Table) (x : Word) {k : Nat} (h : 6 < k) (h' : k ≤ 9) :
    rsqrtEstimate tbl x k = rsqrtSeeded tbl x := (if_neg (by omega)).trans (if_pos h')

theorem rsqrtEstimate_iterated (tbl : Config.Table) (x : Word) {k : Nat} (h : 9 < k) :
    rsqrtEstimate tbl x k = nrIterate x (rsqrtSeeded tbl x) := (if_neg (by omega)).trans (if_neg (by omega))

theorem rsqrtLoad_progress (tbl : Config.Table) (s : State) : RsqrtProgress tbl 0 s.rsqrtLoad := by
  refine ⟨fun _ => ⟨rfl, ?_⟩, ?_, ?_, ?_, ?_, ?_, ?_⟩
  · exact ⟨by simp, by simp, by simpa using s.a.isLt, by simp, by simp⟩
  all_goals intro h
  all_goals omega

/-- RSQRT's micro-step `k` keeps the estimator's progress (R150, R151). -/
theorem rsqrtStep_progress (tbl : Config.Table) {k : Nat} {s : State} (hk : k < 12) (h : RsqrtProgress tbl k s) :
    RsqrtProgress tbl (k + 1) (s.rsqrtStep tbl k) := by
  obtain ⟨hc, hz, ho, he, hy, hsq, hsc⟩ := h
  have hclz : k < 5 → RsqrtProgress tbl (k + 1) (s.clzStep k) := by
    intro h5
    obtain ⟨hn, hp⟩ := hc (by omega)
    have ha := (clzStep_control k s).a
    have hedge : (s.clzStep k).edge = s.edge := by rw [clzStep_frame]
    refine ⟨fun _ => ⟨hedge.trans hn, ha ▸ clzStep_progress h5 hp⟩, ?_, ?_, ?_, ?_, ?_, ?_⟩
    all_goals intro h
    all_goals omega
  have hseed : k = 5 → RsqrtProgress tbl (k + 1) (s.rsqrtSeed tbl) := by
    rintro rfl
    obtain ⟨hn, hp⟩ := hc le_rfl
    obtain ⟨h0, hs⟩ | ⟨h1, hs⟩ | ⟨h0, h1, hs⟩ := rsqrtSeed_cases tbl s <;> rw [hs]
    · refine ⟨by omega, by simp [h0], by simp [h0], by simp, by simp, by omega, by omega⟩
    · refine ⟨by omega, by simp [h1], by simp [h1], by simp, by simp, by omega, by omega⟩
    · have hexp := seedExponent h0 hp
      refine ⟨by omega, ?_, ?_, fun _ _ => hexp, ?_, by omega, by omega⟩
      · exact fun _ => iff_of_false (by rw [hn]; decide) h0
      · exact fun _ => iff_of_false (by rw [hn]; decide) h1
      · intro _ _
        exact (congrArg (fun e : BitVec 5 => tbl.get e.toFin) hexp).trans (rsqrtEstimate_seed tbl s.a (k := 6) le_rfl).symm
  -- an edge case: the remaining micro-steps change nothing
  have hedge : 6 ≤ k → s.edge ≠ .none → RsqrtProgress tbl (k + 1) s := fun h6 hne =>
    ⟨by omega, fun _ => hz h6, fun _ => ho h6, fun _ h => absurd h hne, fun _ h => absurd h hne, fun _ h => absurd h hne,
      fun _ h => absurd h hne⟩
  rcases Nat.lt_or_ge k 5 with h5 | h5
  · have : s.rsqrtStep tbl k = s.clzStep k := by interval_cases k <;> rfl
    rw [this]; exact hclz h5
  rcases Nat.eq_or_lt_of_le h5 with rfl | h6
  · exact hseed rfl
  interval_cases k
  all_goals
    simp only [State.rsqrtStep]
    obtain ⟨hn, hu⟩ | ⟨hn, hu⟩ := unlessEdge_cases s _
  all_goals rw [hu]
  all_goals first
    | exact hedge (by omega) hn
    | skip
  all_goals
    have hy := hy (by omega) hn
    have he := he (by omega) hn
    refine ⟨by omega, fun _ => hz (by omega), fun _ => ho (by omega), fun _ _ => he, fun _ _ => ?_, ?_, ?_⟩
  -- INTERP
  · rw [rsqrtEstimate_seed _ _ (by omega)] at hy
    rw [rsqrtEstimate_seeded _ _ (by omega) (by omega), rsqrtSeeded, ← hy, ← he]
  · omega
  · omega
  -- NR1-SQUARE
  · rw [rsqrtEstimate_seeded _ _ (by omega) (by omega)] at hy ⊢; exact hy
  · exact fun _ _ => rfl
  · omega
  -- NR1-SCALE
  · rw [rsqrtEstimate_seeded _ _ (by omega) (by omega)] at hy ⊢; exact hy
  · exact fun _ _ => hsq (by omega) hn
  · exact fun _ _ => rfl
  -- NR1-UPDATE
  · rw [rsqrtEstimate_seeded _ _ (by omega) (by omega)] at hy
    rw [rsqrtEstimate_iterated _ _ (by omega), nrIterate, ← hy, ← hsq (by omega) hn, ← hsc (by omega) hn]
  · omega
  · omega
  -- NR2-SQUARE
  · rw [rsqrtEstimate_iterated _ _ (by omega)] at hy ⊢; exact hy
  · exact fun _ _ => rfl
  · omega
  -- NR2-SCALE
  · rw [rsqrtEstimate_iterated _ _ (by omega)] at hy ⊢; exact hy
  · exact fun _ _ => hsq (by omega) hn
  · exact fun _ _ => rfl

/-- The last micro-step and the completion rule give rsqrt32 (R151). -/
theorem rsqrtResults_of_progress (tbl : Config.Table) {s : State} (h : RsqrtProgress tbl 12 s) :
    (s.rsqrtStep tbl 12).rsqrtResults = (rsqrt32 tbl s.a, 0) := by
  obtain ⟨-, hz, ho, -, hy, hsq, hsc⟩ := h
  have hz := hz (by omega)
  have ho := ho (by omega)
  simp only [State.rsqrtStep]
  obtain ⟨hn, hu⟩ | ⟨hn, hu⟩ := unlessEdge_cases s { s with y := nrUpdate s.y s.xy2 } <;> rw [hu]
  · have h0 : s.a ≠ 0 := fun h => by rw [hz.2 h] at hn; cases hn
    have h1 : s.a ≠ 1 := fun h => by rw [ho.2 h] at hn; cases hn
    simp only [State.rsqrtResults, hn, rsqrt32, if_neg h0, if_neg h1]
    have hy := hy (by omega) hn
    rw [rsqrtEstimate_iterated _ _ (by omega)] at hy
    rw [← hy, nrIterate, ← hsq (by omega) hn, ← hsc (by omega) hn]
  · cases hedge : s.edge with
    | none => exact absurd hedge hn
    | zero => simp only [State.rsqrtResults, hedge, rsqrt32, if_pos (hz.1 hedge)]
    | one =>
      have h1 := ho.1 hedge
      have h0 : s.a ≠ 0 := by rw [h1]; decide
      simp only [State.rsqrtResults, hedge, rsqrt32, if_neg h0, if_pos h1]

end Sys2Proof.Machine
end

