-- ==== Sys2Proof/Tests/Slice0.lean ====
section
/-!
SUPPORT. Tests whose expected values are those of spec/95_test_vectors.md and of the encodings of 30_encoding.md, and for each statement
with hypotheses a witness: concrete states and operands that meet them, at the ends of each range.
-/
namespace Sys2Proof.Machine.Tests

/-! ### Helpers -/

/-- A unit with a request in flight. -/
def inFlight (op : BitVec 3) (a b : Word) (cnt : BitVec 6) : State :=
  { State.reset with busy := true, op := op, a := a, b := b, cnt := cnt }

/-- A unit whose last request has completed with these results. -/
def finished (op : BitVec 3) (x0 x1 : Word) : State :=
  { State.reset with r0 := some x0, r1 := some x1, done := true, op := op }

/-- The state with these coming steps of the host. -/
def hosted (hs : List HostStep) (s : State) : State := { s with inputs := hs }

/-- A step at which the host does nothing but read. -/
def reading (rs : List HostReg) : HostStep := { rst := false, req := none, reads := rs }

/-- A step with RESET, at which the host also offers a request. -/
def resetting : HostStep := { rst := true, req := some ⟨1, 2, 3⟩, reads := [.status] }

/-- R0, R1 and STATUS of the next state. -/
def shown (o : Host.Outcome State Fault Refusal) : Option (Option Word × Option Word × Word) :=
  (nextOf o).map fun t => (t.r0, t.r1, t.statusWord)

/-- The fault of a step. -/
def faultOf : Host.Outcome State Fault Refusal → Option Fault
  | .fault f => some f
  | .next _ | .refused _ => none

/-- A host that polls STATUS and keeps offering a request. -/
def pollingHost : List HostStep := List.replicate 40 { rst := false, req := some ⟨3, 6, 7⟩, reads := [.status] }

/-! ### Well-formedness: each check refuses an ill-formed term (R73, R77) -/

theorem test_two_operands_for_clz_refused : (Written.mk .clz [1, 2]).arityOk = false := by decide
theorem test_one_operand_for_divmod_refused : (Written.mk .divmod [1]).arityOk = false := by decide
theorem test_operand_of_33_bits_refused : (Written.mk .mulw [1, 0x100000000]).rangesOk = false := by decide
theorem test_ill_formed_not_assembled :
    (Written.mk .rsqrt []).assemble = none ∧ (Written.mk .op7 [0, 0x100000000]).assemble = none := by decide
theorem test_well_formed_assembled : (Written.mk .divmod [100, 7]).assemble = some (.divmod 100 7) := by decide

theorem test_line_assembled : assembleLine [] "DIVMOD 100, 7".toList = some 0x10000000700000064 := by decide
theorem test_line_with_label_and_comment :
    assembleLine [("n".toList, 12345)] "loop: DIVMOD n, 0xA ; 12345".toList = some 0x10000000A00003039 := by decide
theorem test_line_refused :
    assembleLine [] "MUL64 1, 2".toList = none ∧ assembleLine [] "CLZ 12G".toList = none := by decide

/-! ### Decoding: words written out bit by bit from R70 and R72 -/

theorem test_decode_clz : decode (0b000#3 ++ 0xFFFFFFFF#32 ++ 0x00000005#32) = .clz 5 0xFFFFFFFF := by decide
theorem test_decode_divmod : decode (0b001#3 ++ 0x00000007#32 ++ 0x00000064#32) = .divmod 100 7 := by decide
theorem test_decode_mul32 :
    decode (0b010#3 ++ 0x9ABCDEF0#32 ++ 0x12345678#32) = .mul32 0x12345678 0x9ABCDEF0 := by decide
theorem test_decode_mulw : decode (0b011#3 ++ 0x00000002#32 ++ 0x80000000#32) = .mulw 0x80000000 2 := by decide
theorem test_decode_rsqrt : decode (0b100#3 ++ 0x12345678#32 ++ 0x00000005#32) = .rsqrt 5 0x12345678 := by decide
theorem test_decode_op5 : decode (0b101#3 ++ 0x00000002#32 ++ 0x00000001#32) = .op5 1 2 := by decide
theorem test_decode_op6 : decode (0b110#3 ++ 0xFFFFFFFF#32 ++ 0x00000000#32) = .op6 0 0xFFFFFFFF := by decide
theorem test_decode_op7 : decode (0b111#3 ++ 0x00000000#32 ++ 0xFFFFFFFF#32) = .op7 0xFFFFFFFF 0 := by decide

theorem test_decode_table_word : decodeTableWord 72 0x10000000700000064 = some (.divmod 100 7) := by decide
theorem test_decode_too_short : decodeBytes [0x64, 0, 0, 0, 7, 0, 0, 0] = .error .tooShort := by rfl
theorem test_decode_bit_67 : decodeBytes [0x64, 0, 0, 0, 7, 0, 0, 0, 0x09] = .error .bitAboveRequest := by rfl
theorem test_decode_bytes : decodeBytes [0x64, 0, 0, 0, 7, 0, 0, 0, 0x01] = .ok (.divmod 100 7) := by rfl

/-! ### One step of each instruction (the traces of 95_test_vectors.md section 2) -/

/-- `CLZ 5` after its acceptance: R0 and R1 hold no value and STATUS is BUSY only. -/
theorem test_clz_accepted : (nextOf (exec (.clz 5 0) State.reset)).map (fun t => (t.n, t.v, t.r0, t.statusWord)) =
    some (32, 5, none, 1) := by decide

/-- `CLZ 5`, micro-step 4: R0 = 29. -/
theorem test_clz_completes : shown (exec (.clz 5 0) { inFlight 0 5 0 4 with n := 30, v := 1 }) =
    some (some 29, some 0, 2) := by decide

/-- `DIVMOD 100, 7`, micro-step 31: R0 = 14 and R1 = 2. -/
theorem test_divmod_completes : shown (exec (.divmod 100 7) { inFlight 1 100 7 31 with rem := 1, quo := 14 }) =
    some (some 14, some 2, 2) := by decide

/-- `DIVMOD 5, 0`, micro-step 31: the results are (0, 0), not (0xFFFFFFFF, 5). -/
theorem test_divmod_by_zero_completes :
    shown (exec (.divmod 5 0) { inFlight 1 5 0 31 with rem := 2, quo := 0xFFFFFFFE, zdiv := true }) =
    some (some 0, some 0, 2) := by decide

/-- `MUL32 6, 7`, micro-step 2: S.acc = 42 and S.ma = 48. -/
theorem test_mul32_step : (nextOf (exec (.mul32 6 7) { inFlight 2 6 7 2 with acc := 18, ma := 24 })).map
    (fun t => (t.acc, t.ma, t.cnt)) = some (42, 48, 3) := by decide

/-- `MUL32 0x12345678, 3`, micro-step 31: R0 = 0x369D0368. -/
theorem test_mul32_completes : shown (exec (.mul32 0 0) { inFlight 2 0x12345678 3 31 with acc := 0x369D0368 }) =
    some (some 0x369D0368, some 0, 2) := by decide

/-- `MULW 0x12345678, 0x9ABCDEF0`: R0 = 0x242D2080 and R1 = 0x0B00EA4E. -/
theorem test_mulw_completes : shown (exec (.mulw 0 0) (inFlight 3 0x12345678 0x9ABCDEF0 0)) =
    some (some 0x242D2080, some 0x0B00EA4E, 2) := by decide

/-- `MULW 0xFFFFFFFF, 0xFFFFFFFF`, the largest product. -/
theorem test_mulw_largest : shown (exec (.mulw 0 0) (inFlight 3 0xFFFFFFFF 0xFFFFFFFF 0)) =
    some (some 1, some 0xFFFFFFFE, 2) := by decide

/-- `RSQRT 3`, micro-step 5, on a unit whose table is rounded down at entry 1 (R141): the seed is that entry. -/
theorem test_rsqrt_seed_of_another_table :
    (nextOf (exec (.rsqrt 3 0) (({ inFlight 4 3 0 5 with n := 31, v := 1 } : State).withTable
      (Config.rsqrtTable.set 1 46340)))).map (fun t => (t.exp, t.y)) = some (1, 46340) := by decide

/-- `RSQRT 5`, micro-step 12: R0 = 0x727C. -/
theorem test_rsqrt_completes : shown (exec (.rsqrt 5 0) { inFlight 4 5 0 12 with y := 29250, xy2 := 65274 }) =
    some (some 0x727C, some 0, 2) := by decide

/-- Program P4's reserved request: R0 = R1 = 0 and STATUS = 0x6 (DONE and ILLOP). -/
theorem test_op5_completes : shown (exec (.op5 1 2) (inFlight 5 1 2 0)) = some (some 0, some 0, 6) := by decide
theorem test_op6_completes : shown (exec (.op6 1 2) (inFlight 6 1 2 0)) = some (some 0, some 0, 6) := by decide
theorem test_op7_completes : shown (exec (.op7 1 2) (inFlight 7 1 2 0)) = some (some 0, some 0, 6) := by decide

/-! ### One step of the machine (R190, R194, R200) -/

/-- RESET wins over the completion of the same step. -/
theorem test_reset_wins : shown (step (hosted [resetting] (inFlight 3 6 7 0))) = some (none, none, 0) := by decide

/-- A read of R0 while the request is in flight is a fault, in the very step that completes it too. -/
theorem test_read_while_busy_faults :
    faultOf (step (hosted [reading [.status, .r0]] (inFlight 3 6 7 0))) = some (.readNoValue .r0) := by decide

/-- The host reads the registers as they were before the acceptance of the same step. -/
theorem test_read_sees_the_state_before :
    (nextOf (step (hosted [{ rst := false, req := some ⟨3, 6, 7⟩, reads := [.r1, .status] }] (finished 1 14 2)))).map
      (fun t => (t.observed, t.r1)) = some ([(.r1, 2), (.status, 2)], none) := by decide

/-- A request placed by `withFetchWord` is the first instruction after reset. -/
theorem test_first_instruction :
    (nextOf (step (State.reset.withFetchWord 72 0x10000000700000064))).map (fun t => (t.op, t.a, t.b, t.busy)) =
      some (1, 100, 7, true) := by decide

/-! ### Witnesses: what the hypotheses of each statement ask can be met -/

theorem witness_DecodeAfterEncodeIsIdentity : (Instr.mulw 0xFFFFFFFF 0xFFFFFFFF).wellFormed = true := by decide

theorem witness_EveryRequestWordHasOneMeaning : encode (.op7 0xFFFFFFFF 0xFFFFFFFF) = 0x7FFFFFFFFFFFFFFFF := by decide

theorem witness_DecodingUsesOpAlone :
    (⟨.rsqrt, 0x70000000000000000, 0x40000000000000000⟩ : OpcodeRow) ∈ opcodeRows ∧
    (⟨.rsqrt, 0x70000000000000000, 0x40000000000000000⟩ : OpcodeRow).selects 0x41234567800000005 = true ∧
    (0x41234567800000005 : BitVec 67).extractLsb' 64 3 = (0x40000000000000000 : BitVec 67).extractLsb' 64 3 := by decide

theorem witness_WrittenRequestsAssemble :
    (0 < 2 ^ 32 ∧ 0xFFFFFFFF < 2 ^ 32) ∧ (Op.mulw ≠ .clz ∧ Op.mulw ≠ .rsqrt) ∧
    (2 ^ 32 ≤ 0x100000000 ∧ 0x100000000 ∈ [0, 0x100000000]) := by decide

/-- The common hypotheses, with a busy unit, an idle one that is offered a request, and an idle one that is not. -/
theorem witness_StepRunsDecodedInstruction :
    (let s := hosted [reading [.status]] (inFlight 1 100 7 31)
     s.readsSafe = true ∧ s.ports.rst = false ∧ s.busy = true ∧ decode (s.op ++ s.b ++ s.a) = .divmod 100 7) ∧
    (let s := hosted [HostStep.offer ⟨4, 5, 0⟩] State.reset
     s.readsSafe = true ∧ s.ports.rst = false ∧ s.busy = false ∧ s.ports.req = some ⟨4, 5, 0⟩ ∧
       decode (4#3 ++ 0#32 ++ 5#32) = .rsqrt 5 0) ∧
    (State.reset.readsSafe = true ∧ State.reset.ports.rst = false ∧ State.reset.busy = false ∧
      State.reset.ports.req = none) := by decide

theorem witness_ResetWinsOverEveryEvent :
    (let s := hosted [resetting] (inFlight 2 6 7 31)
     s.readsSafe = true ∧ s.ports.rst = true) ∧
    (let s := hosted [resetting] State.reset
     s.readsSafe = true ∧ s.ports.rst = true) := by decide

theorem witness_PowerOnIsTheStateAfterReset :
    ∃ t, (hosted [resetting] (inFlight 2 6 7 31)).ports.rst = true ∧
      step (hosted [resetting] (inFlight 2 6 7 31)) = .next t := ⟨_, rfl, rfl⟩

theorem witness_StatusWordLayout : 3 ≥ 3 ∧ 31 ≥ 3 := by decide

/-- Each read that faults, and a step whose reads all find values. -/
theorem witness_HostReadsSeeTheStateBefore :
    (∃ f, step (hosted [reading [.r0]] State.reset) = .fault f) ∧
    (∃ f, step (hosted [reading [.status, .r1]] (inFlight 0 5 0 0)) = .fault f) ∧
    (∃ t, step (hosted [reading [.r0, .r1, .status]] (finished 1 14 2)) = .next t) :=
  ⟨⟨.readNoValue .r0, rfl⟩, ⟨.readNoValue .r1, rfl⟩, ⟨_, rfl⟩⟩

theorem witness_HostReadsChangeNothing :
    (hosted [reading [.r0, .r1, .status]] (finished 1 14 2)).inputs = reading [.r0, .r1, .status] :: [] ∧
    (hosted [reading [.r0, .r1, .status]] (finished 1 14 2)).readsSafe = true := by decide

theorem witness_RequestsNeverTrap : (hosted [reading [.status]] State.reset).readsSafe = true := by decide

theorem witness_AcceptanceState : State.reset.busy = false ∧ (finished 1 14 2).busy = false := by decide

/-- The common hypotheses with an idle and with a busy unit, with RESET and without. -/
theorem witness_OfferAcceptedExactlyWhenIdle :
    ∀ s ∈ [finished 1 14 2, inFlight 1 100 7 0], ∀ h ∈ [HostStep.offer ⟨1, 2, 3⟩, resetting],
      (hosted [h] s).inputs = h :: [] ∧ (hosted [h] s).readsSafe = true ∧ h.req = some ⟨1, 2, 3⟩ := by decide

theorem witness_OfferAcceptedExactlyWhenIdle_clauses :
    (finished 1 14 2).busy = false ∧ (inFlight 1 100 7 0).busy = true ∧ (HostStep.offer ⟨1, 2, 3⟩).rst = false ∧
      resetting.rst = true := by decide

/-- A micro-step that does not complete, and one that does. -/
theorem witness_MicrostepCountsAndCompletes :
    (inFlight 0 5 0 3).busy = true ∧ ((inFlight 0 5 0 3).cnt + 1).toNat ≠ lat (Op.ofCode (inFlight 0 5 0 3).op) ∧
    (inFlight 0 5 0 4).busy = true ∧ ((inFlight 0 5 0 4).cnt + 1).toNat = lat (Op.ofCode (inFlight 0 5 0 4).op) := by decide

/-- An operation for which all four clauses apply, and one for which each of the others does. -/
theorem witness_MicrostepFrame :
    (inFlight 3 6 7 0).busy = true ∧
    ((inFlight 3 6 7 0).op ≠ 0 ∧ (inFlight 3 6 7 0).op ≠ 4 ∧ (inFlight 3 6 7 0).op ≠ 1 ∧ (inFlight 3 6 7 0).op ≠ 2) := by
  decide

theorem witness_ClzMicrosteps : ∀ k ∈ [0#6, 4#6],
    (inFlight 0 5 0 k).busy = true ∧ (inFlight 0 5 0 k).op = 0 ∧ (inFlight 0 5 0 k).cnt.toNat < 5 := by decide

theorem witness_DivmodMicrosteps : ∀ k ∈ [0#6, 31#6],
    (inFlight 1 100 7 k).busy = true ∧ (inFlight 1 100 7 k).op = 1 ∧ (inFlight 1 100 7 k).cnt.toNat < 32 := by decide

theorem witness_Mul32Microsteps : ∀ k ∈ [0#6, 31#6],
    (inFlight 2 6 7 k).busy = true ∧ (inFlight 2 6 7 k).op = 2 ∧ (inFlight 2 6 7 k).cnt.toNat < 32 := by decide

theorem witness_MulwMicrostep :
    (inFlight 3 6 7 0).busy = true ∧ (inFlight 3 6 7 0).op = 3 ∧ (inFlight 3 6 7 0).cnt = 0 := by decide

/-- Every clause's micro-step number, the ends of 0 to 4 among them. -/
theorem witness_RsqrtMicrosteps :
    (∀ k ∈ [0#6, 4#6, 5#6, 6#6, 7#6, 8#6, 9#6, 10#6, 11#6],
      (inFlight 4 5 0 k).busy = true ∧ (inFlight 4 5 0 k).op = 4 ∧ (inFlight 4 5 0 k).cnt = k) ∧
    (inFlight 4 5 0 0).cnt.toNat ≤ 4 ∧ (inFlight 4 5 0 4).cnt.toNat ≤ 4 := by decide

theorem witness_RsqrtLastMicrostep : ∀ e ∈ [Edge.none, .zero, .one],
    ({ inFlight 4 5 0 12 with edge := e } : State).busy = true ∧ ({ inFlight 4 5 0 12 with edge := e } : State).op = 4 ∧
      ({ inFlight 4 5 0 12 with edge := e } : State).cnt = 12 := by decide

theorem witness_ReservedMicrostep : ∀ c ∈ [5#3, 6#3, 7#3],
    (inFlight c 1 2 0).busy = true ∧
      ((inFlight c 1 2 0).op = 5 ∨ (inFlight c 1 2 0).op = 6 ∨ (inFlight c 1 2 0).op = 7) ∧
      (inFlight c 1 2 0).cnt = 0 := by decide

/-- The input 0, and the least and the greatest other input, with a bit above their highest set bit. -/
theorem witness_Clz32CountsLeadingZeros :
    (0 : Word) = 0 ∧ (1 : Word) ≠ 0 ∧ (0xFFFFFFFF : Word) ≠ 0 ∧ 1 > 31 - clz32 1 ∧ 32 > 31 - clz32 0xFFFFFFFF := by decide

/-- No micro-step and all of them, with a divisor that is not 0 and with one that is. -/
theorem witness_DivmodDatapathDivides :
    0 ≤ 32 ∧ 32 ≤ 32 ∧ (inFlight 1 100 7 0).b ≠ 0 ∧ (inFlight 1 100 0 0).b = 0 := by decide

theorem witness_Mul32DatapathMultiplies : 0 < 32 ∧ 31 < 32 := by decide

/-- What `AcceptedAndCompletes` asks, in ClzResult, Mul32Result, MulwResult, RsqrtResult, RsqrtRegressionVectors,
ReservedResult and EveryRequestTakesExactlyLat: an idle unit and a host that does not disturb it, before, at and after
the completion. -/
theorem witness_AcceptedAndCompletes :
    (hosted pollingHost State.reset).busy = false ∧
    (∀ k ∈ [0, 1, 5, 13, 32], (hosted pollingHost State.reset).undisturbed k = true) := by decide

theorem witness_DivmodResult :
    State.reset.busy = false ∧ (0 : Word) = 0 ∧ (1 : Word) ≠ 0 ∧ (0xFFFFFFFF : Word) ≠ 0 := by decide

theorem witness_RsqrtRegressionVectors : State.reset.busy = false ∧ State.reset.table = Config.rsqrtTable := ⟨rfl, rfl⟩

/-- Both edge cases, the least and the greatest input with a seed, and both ends of an exponent's range. -/
theorem witness_Rsqrt32Algorithm :
    (0 : Word) = 0 ∧ (1 : Word) = 1 ∧
    (2 ≤ (2 : Word).toNat ∧ 2 ^ (1 : Fin 32).val ≤ (2 : Word).toNat ∧ (2 : Word).toNat < 2 ^ ((1 : Fin 32).val + 1)) ∧
    (2 ≤ (0xFFFFFFFF : Word).toNat ∧ 2 ^ (31 : Fin 32).val ≤ (0xFFFFFFFF : Word).toNat ∧
      (0xFFFFFFFF : Word).toNat < 2 ^ ((31 : Fin 32).val + 1)) := by decide

/-- The ends of the range; a table whose next entry is not above this one, and a table whose next entry is. -/
theorem witness_RsqrtTableDecreases :
    (0 : Fin 32).val < 31 ∧ (30 : Fin 32).val < 31 ∧
    (tableNext Config.rsqrtTable (BitVec.ofFin 3)).toNat ≤ (Config.rsqrtTable.get 3).toNat ∧
    ((Config.rsqrtTable.set 3 5).get 3).toNat < (tableNext (Config.rsqrtTable.set 3 5) (BitVec.ofFin 3)).toNat := by decide

theorem witness_RsqrtTableIsNearest : (0 : Fin 32).val % 2 = 0 ∧ (30 : Fin 32).val % 2 = 0 := by decide

/-- The least and the greatest input, each with the estimate of its first and of its second iteration. -/
theorem witness_RsqrtIntermediatesFit :
    ∀ x ∈ [(2 : Nat), 0xFFFFFFFF], 2 ≤ (BitVec.ofNat 32 x).toNat := by decide

theorem witness_RsqrtIntermediatesFit_estimates (x : Word) :
    ∃ y z : Word, y = rsqrtSeeded Config.rsqrtTable x ∧ z = nrIterate x (rsqrtSeeded Config.rsqrtTable x) :=
  ⟨_, _, rfl, rfl⟩

theorem witness_RsqrtAccuracyRange : (1 ≤ 1 ∧ 1 ≤ 4168) ∧ (1 ≤ 4168 ∧ 4168 ≤ 4168) := by decide

theorem witness_RsqrtOfPowersOfTwo : 1 ≤ (1 : Fin 32).val ∧ 1 ≤ (31 : Fin 32).val := by decide

/-- A busy unit at its request's last micro-step, and a unit at rest after a completion. -/
theorem busy_protocolInv : ProtocolInv (inFlight 1 100 7 31) :=
  ⟨fun _ => ⟨by decide, ⟨rfl, rfl, rfl, rfl, rfl⟩⟩, fun h => absurd h (by decide), fun _ => ⟨rfl, rfl⟩, by decide⟩

theorem rest_protocolInv : ProtocolInv (finished 1 14 2) :=
  ⟨fun h => absurd h (by decide), fun _ => ⟨rfl, rfl, rfl⟩, fun h => absurd h (by decide), by decide⟩

theorem witness_ProtocolInvKept :
    ∃ t, ProtocolInv (inFlight 1 100 7 31) ∧ step (inFlight 1 100 7 31) = .next t := ⟨_, busy_protocolInv, rfl⟩

/-- A `CLZ 5` at its acceptance. -/
theorem witness_DatapathInvKept :
    ∃ s t : State, DatapathInv s ∧ s.busy = true ∧ step s = .next t := by
  refine ⟨State.reset.accepted (.clz 5 0), _, ⟨⟨fun _ => ⟨by decide, ?_⟩, fun h => absurd h (by decide), fun _ => ⟨rfl, rfl⟩, ?_⟩,
    fun _ => ?_, fun h => absurd h (by decide)⟩, rfl, rfl⟩
  · exact ⟨rfl, rfl, rfl, rfl, rfl⟩
  · decide
  · exact clzLoad_progress (State.reset.accept .clz 5 0)

theorem witness_TableNeverChanges : ∃ t, step (hosted [resetting] (inFlight 4 5 0 5)) = .next t := ⟨_, rfl⟩

theorem witness_ResultsPersist :
    Completed 14 2 false (hosted [reading [.r0, .r1], reading [.r0]] (finished 1 14 2)) ∧
    ∀ h ∈ (hosted [reading [.r0, .r1], reading [.r0]] (finished 1 14 2)).inputs.take 2, h.rst = false ∧ h.req = none :=
  ⟨⟨rfl, rfl, rfl, rfl, rfl⟩, by decide⟩

theorem witness_BusyUnitCompletesWithin32 :
    ProtocolInv (inFlight 1 100 7 31) ∧ (inFlight 1 100 7 31).busy = true ∧
    (inFlight 1 100 7 31).undisturbed 32 = true := ⟨busy_protocolInv, rfl, rfl⟩

theorem witness_ResultsIndependentOfHistory :
    State.reset.table = (hosted pollingHost (finished 1 14 2)).table ∧
    State.reset.busy = false ∧ (hosted pollingHost (finished 1 14 2)).busy = false ∧
    State.reset.undisturbed (lat .divmod) = true ∧
    (hosted pollingHost (finished 1 14 2)).undisturbed (lat .divmod) = true := by decide

theorem witness_IgnoredOperandsHaveNoEffect :
    (hosted pollingHost (finished 1 14 2)).busy = false ∧
    (Instr.rsqrt 5 0, Instr.rsqrt 5 9) ∈
      [(Instr.clz 5 0, Instr.clz 5 9), (.rsqrt 5 0, .rsqrt 5 9), (.op5 5 0, .op5 8 9), (.op6 5 0, .op6 8 9),
       (.op7 5 0, .op7 8 9)] ∧
    (hosted pollingHost (finished 1 14 2)).undisturbed (lat (Instr.rsqrt 5 0).op) = true := by decide

theorem witness_IssueWaitsAndIsAccepted : ProtocolInv (finished 1 14 2) ∧ ProtocolInv (inFlight 1 100 7 31) :=
  ⟨rest_protocolInv, busy_protocolInv⟩

theorem witness_MacrosReturnTheResults : (hosted pollingHost (finished 1 14 2)).busy = false := by decide

end Sys2Proof.Machine.Tests
end

section
/-!
PROOFS. 00_scope.md R9: the software forms of the leading-zero count and of the widening product against the native ones.
-/
namespace Sys2Proof.Machine

/-! ### The software count runs CLZ's datapath -/

/-- One halving of the software count on the pair (n, v) (R9, R102). -/
def clzHalve (nv : Word × Word) (c : Nat) : Word × Word :=
  if nv.2 >>> c ≠ 0 then (nv.1 - BitVec.ofNat 32 c, nv.2 >>> c) else nv

/-- The pair (n, v) of the software count, as CLZ's working registers hold it. -/
def State.clzPair (s : State) : Word × Word := (s.n.setWidth 32, s.v)

/-- CLZ's datapath after its first `k` micro-steps. -/
def State.clzRun (s : State) (k : Nat) : State := (List.range k).foldl (fun u j => u.clzStep j) s

@[simp] theorem State.clzRun_zero (s : State) : s.clzRun 0 = s := rfl

theorem State.clzRun_succ (s : State) (k : Nat) : s.clzRun (k + 1) = (s.clzRun k).clzStep k := by
  simp [State.clzRun, List.range_succ]

theorem clzRun_progress (s : State) {k : Nat} (hk : k ≤ 5) : ClzProgress s.a k (s.clzLoad.clzRun k) := by
  induction k with
  | zero => exact clzLoad_progress s
  | succ k ih => rw [State.clzRun_succ]; exact clzStep_progress hk (ih (by omega))

/-- A micro-step never takes more from `S.n` than it holds: a wrapped 6-bit count would exceed 32. So the 6-bit and the
32-bit subtraction agree. -/
theorem clzHalve_clzPair {x : Word} {k : Nat} {s : State} (hk : k < 5) (h : ClzProgress x k s) :
    clzHalve s.clzPair (clzShift k) = (s.clzStep k).clzPair := by
  have hle := (clzStep_progress hk h).countLe
  have hc : clzShift k ≤ 16 := Nat.shiftRight_le 16 k
  obtain ⟨ht, he⟩ | ⟨ht, he⟩ := clzStep_cases k s <;> rw [he] at hle ⊢
  · have hn : (s.n - BitVec.ofNat 6 (clzShift k)).setWidth 32 = s.n.setWidth 32 - BitVec.ofNat 32 (clzShift k) := by
      have := h.countLe
      simp only [BitVec.toNat_sub, BitVec.toNat_ofNat] at hle
      apply BitVec.eq_of_toNat_eq
      simp only [BitVec.toNat_setWidth, BitVec.toNat_sub, BitVec.toNat_ofNat]
      omega
    exact (if_pos ht).trans (Prod.ext hn.symm rfl)
  · exact if_neg (not_not.2 ht)

/-- The halvings of the software count are the micro-steps of CLZ (R102). -/
theorem clzHalve_foldl_eq_clzRun (s : State) {k : Nat} (hk : k ≤ 5) :
    (List.range k).foldl (fun nv j => clzHalve nv (clzShift j)) (32, s.a) = (s.clzLoad.clzRun k).clzPair := by
  induction k with
  | zero => rfl
  | succ k ih =>
    rw [List.range_succ, List.foldl_append, ih (by omega), State.clzRun_succ]
    exact clzHalve_clzPair hk (clzRun_progress s (by omega))

theorem clzSoft_eq_clzCount (s : State) : clzSoft s.a = (s.clzLoad.clzRun 5).clzCount := by
  have h := clzHalve_foldl_eq_clzRun s (le_refl 5)
  calc clzSoft s.a
      = (fun nv : Word × Word => nv.1 - nv.2)
          ((List.range 5).foldl (fun nv j => clzHalve nv (clzShift j)) (32, s.a)) := rfl
    _ = (s.clzLoad.clzRun 5).clzCount := by rw [h]; rfl

/-- The software count is the number of leading zeros (R9, R103). -/
theorem clzSoft_eq_clz32 (x : Word) : clzSoft x = BitVec.ofNat 32 (clz32 x) := by
  have hrun := clzSoft_eq_clzCount { State.reset with a := x }
  have hcount := (clzCount_of_progress (clzRun_progress { State.reset with a := x } (le_refl 5))).1
  rw [← hrun] at hcount
  rw [← hcount, BitVec.ofNat_toNat, BitVec.setWidth_eq]

theorem clzBy_eq_clz32 (p : Config.Backend) (x : Word) : clzBy p x = BitVec.ofNat 32 (clz32 x) := by
  cases p with
  | soft => exact clzSoft_eq_clz32 x
  | native => rfl

/-! ### The software product is the schoolbook multiplier -/

/-- Shift and add over the low `k` bits of b, as the software product does (R9, R125). -/
def shiftAdd (a b : Word) (k : Nat) : DWord :=
  (List.range k).foldl (fun acc j => if b.getLsbD j then acc + (a.setWidth 64 <<< j) else acc) 0

theorem shiftAdd_succ (a b : Word) (k : Nat) :
    shiftAdd a b (k + 1) = if b.getLsbD k then shiftAdd a b k + (a.setWidth 64 <<< k) else shiftAdd a b k := by
  simp [shiftAdd, List.range_succ]

/-- The partial sum is the library's multiplication by the low bits of b. -/
theorem shiftAdd_eq_mulRec (a b : Word) {k : Nat} (hk : k < 32) :
    shiftAdd a b (k + 1) = BitVec.mulRec (a.setWidth 64) (b.setWidth 64) k := by
  have hbit : ∀ j < 32, (b.setWidth 64).getLsbD j = b.getLsbD j := fun j hj => by
    simp [show j < 64 by omega]
  induction k with
  | zero => rw [shiftAdd_succ, BitVec.mulRec_zero_eq, hbit 0 hk]; simp [shiftAdd]
  | succ k ih =>
    rw [shiftAdd_succ, BitVec.mulRec_succ_eq, hbit _ hk, ih (by omega)]
    split <;> simp

/-- The software product is exact (R9, R125): b has no bit above the 32 that shift and add visits. -/
theorem wmulSoft_eq_wmul (a b : Word) : wmulSoft a b = wmul a b := by
  calc wmulSoft a b = BitVec.mulRec (a.setWidth 64) (b.setWidth 64) 31 := shiftAdd_eq_mulRec a b (by omega)
    _ = a.setWidth 64 * ((b.setWidth 64).setWidth 32).setWidth 64 := BitVec.mulRec_eq_mul_signExtend_setWidth ..
    _ = wmul a b := by rw [BitVec.setWidth_setWidth_of_le b (by omega : 32 ≤ 64), BitVec.setWidth_eq, wmul]

theorem wmulBy_eq_wmul (p : Config.Backend) (a b : Word) : wmulBy p a b = wmul a b := by
  cases p with
  | soft => exact wmulSoft_eq_wmul a b
  | native => rfl

/-! ### The obligation -/

/-- Settles O47: every backend of either function computes the native form. -/
theorem backendsAgree : Obligations.BackendsAgree := by
  intro p q a b
  exact ⟨(clzBy_eq_clz32 p a).trans (clzBy_eq_clz32 q a).symm, (wmulBy_eq_wmul p a b).trans (wmulBy_eq_wmul q a b).symm⟩

end Sys2Proof.Machine
end

section
/-!
PROOFS. What a step does, said as one function of the state and packaged as an induction principle; one equation per operation for
the definitions that read the operation in the latch.
-/
namespace Sys2Proof.Machine

/-! ### One step as a function -/

/-- The unit's event at a step whose host does `p` (R193): RESET wins, a busy unit makes a micro-step, and an idle one accepts
what is offered. -/
def State.unitEvent (p : HostStep) (s : State) : State :=
  if p.rst then s.applyReset
  else if s.busy then s.microstep
  else
    match p.req with
    | some r => s.accepted (decode r.word)
    | none => s

/-- A step whose reads find values is the host's side followed by the unit's event (R193, R200). -/
theorem step_eq_unitEvent {s : State} (h : s.noValueRead s.ports.reads = none) :
    step s = .next (s.takeInputs.unitEvent s.ports) := by
  unfold step State.unitEvent State.currentInstr
  rw [h]
  cases s.ports.rst with
  | true => rfl
  | false =>
    cases hb : s.busy with
    | true => simp [hb, exec_busy]
    | false => cases s.ports.req <;> simp [hb, exec_idle]

/-- What the host's side and every event of the unit keep, every step keeps (R193). -/
theorem step_keeps {P : State → Prop}
    (take : ∀ u, P u → P u.takeInputs)
    (reset : ∀ u, P u → P u.applyReset)
    (micro : ∀ u : State, u.busy = true → P u → P u.microstep)
    (accept : ∀ (u : State) i, P u → P (u.accepted i))
    {s t : State} (hs : P s) (h : step s = .next t) : P t := by
  obtain ⟨-, ⟨-, rfl⟩ | ⟨-, hb, rfl⟩ | ⟨-, -, r, -, rfl⟩ | ⟨-, -, -, rfl⟩⟩ := step_cases h
  · exact reset _ (take s hs)
  · exact micro _ hb (take s hs)
  · exact accept _ _ (take s hs)
  · exact take s hs

/-! ### The operation in the latch -/

/-- The code in the latch is that of the operation it selects (R72, R73). -/
theorem eq_code_of_ofCode {c : BitVec 3} {o : Op} (h : Op.ofCode c = o) : c = o.code := by
  rw [← h, code_ofCode]

variable {s : State}

theorem datapath_clz (h : Op.ofCode s.op = .clz) : s.datapath = s.clzStep s.cnt.toNat := by
  simp only [State.datapath, h]

theorem datapath_divmod (h : Op.ofCode s.op = .divmod) : s.datapath = s.divStep s.cnt.toNat := by
  simp only [State.datapath, h]

theorem datapath_mul32 (h : Op.ofCode s.op = .mul32) : s.datapath = s.mulStep s.cnt.toNat := by
  simp only [State.datapath, h]

theorem datapath_rsqrt (h : Op.ofCode s.op = .rsqrt) : s.datapath = s.rsqrtStep s.table s.cnt.toNat := by
  simp only [State.datapath, h]

/-- MULW and the reserved codes have no working register (R75, R123). -/
theorem datapath_single (h : lat (Op.ofCode s.op) = 1) : s.datapath = s := by
  unfold State.datapath
  cases hop : Op.ofCode s.op with
  | mulw | op5 | op6 | op7 => rfl
  | clz | divmod | mul32 | rsqrt => rw [hop] at h; exact absurd h (by decide)

end Sys2Proof.Machine
end

section
/-!
PROOFS. 10_state.md R23 to R26 and R29: the protocol invariant is kept by every step.
-/
namespace Sys2Proof.Machine

/-- A request in flight that has not reached LAT meets the invariant (R23, R24, R29). -/
theorem ProtocolInv.of_inFlight {t : State} (hf : InFlight t) (hlt : t.cnt.toNat < lat (Op.ofCode t.op)) : ProtocolInv t where
  inFlight _ := ⟨hlt, hf⟩
  doneHolds h := absurd h (by simp [hf.done])
  noResult _ := ⟨hf.r0, hf.r1⟩
  illopIff := by simp [hf.illop, hf.done]

/-- A completed request meets the invariant, when ILLOP says whether its code is reserved (R25, R26). -/
theorem ProtocolInv.of_completed {x0 x1 : Word} {t : State} (h : Completed x0 x1 (Op.ofCode t.op).reserved t) :
    ProtocolInv t where
  inFlight hb := absurd hb (by simp [h.busy])
  doneHolds _ := ⟨h.busy, by simp [h.r0], by simp [h.r1]⟩
  noResult hd := absurd hd (by simp [h.done])
  illopIff := by simp [h.illop, h.done]

theorem complete_completed (s : State) : Completed s.results.1 s.results.2 (Op.ofCode s.op).reserved s.complete :=
  ⟨rfl, rfl, rfl, rfl, rfl⟩

theorem complete_protocolInv (s : State) : ProtocolInv s.complete :=
  .of_completed (complete_completed s)

/-- The host's side of a step touches nothing the invariant speaks of (R38). -/
theorem ProtocolInv.takeInputs {s : State} (h : ProtocolInv s) : ProtocolInv s.takeInputs where
  inFlight hb :=
    have ⟨hlt, hf⟩ := h.inFlight hb
    ⟨hlt, hf.r0, hf.r1, hf.busy, hf.done, hf.illop⟩
  doneHolds := h.doneHolds
  noResult := h.noResult
  illopIff := h.illopIff

theorem applyReset_protocolInv (s : State) : ProtocolInv s.applyReset where
  inFlight hb := absurd hb (by simp)
  doneHolds hd := absurd hd (by simp)
  noResult _ := ⟨rfl, rfl⟩
  illopIff := by simp

theorem accepted_protocolInv (i : Instr) (s : State) : ProtocolInv (s.accepted i) := by
  obtain ⟨hf, -, -, -, hcnt, -⟩ := accepted_spec i s
  exact .of_inFlight hf (by rw [hcnt]; exact lat_pos _)

/-- Below LAT, which is at most 32, the six-bit count does not wrap (R199). -/
theorem cnt_succ_toNat {s : State} (h : s.cnt.toNat < lat (Op.ofCode s.op)) : (s.cnt + 1).toNat = s.cnt.toNat + 1 := by
  have := lat_le (Op.ofCode s.op)
  rw [BitVec.toNat_add, show (1 : BitVec 6).toNat = 1 from rfl]
  omega

/-- The datapath and the count leave a request in flight (R196). -/
theorem datapath_inFlight {s : State} (h : InFlight s) : InFlight s.datapath.countStep := by
  have hc := datapath_control s
  exact ⟨hc.r0.trans h.r0, hc.r1.trans h.r1, hc.busy.trans h.busy, hc.done.trans h.done, hc.illop.trans h.illop⟩

theorem microstep_protocolInv {s : State} (hb : s.busy = true) (h : ProtocolInv s) : ProtocolInv s.microstep := by
  obtain ⟨hlt, hf⟩ := h.inFlight hb
  have hc := datapath_control s
  obtain ⟨-, hm⟩ | ⟨hne, hm⟩ := microstep_cases s <;> rw [hm]
  · exact complete_protocolInv _
  · refine .of_inFlight (datapath_inFlight hf) ?_
    rw [cnt_succ_toNat hlt] at hne
    rw [State.countStep_cnt, State.countStep_op, hc.cnt, hc.op, cnt_succ_toNat hlt]
    omega

/-- Settles O50: the host's side and each of the unit's events keep the invariant. -/
theorem protocolInvKept : Obligations.ProtocolInvKept := by
  intro s t hs h
  exact step_keeps (P := ProtocolInv) (fun _ hu => hu.takeInputs) (fun u _ => applyReset_protocolInv u)
    (fun _ hb hu => microstep_protocolInv hb hu) (fun u i _ => accepted_protocolInv i u) hs h

end Sys2Proof.Machine
end

section
/-!
PROOFS. 10_state.md R21: the datapath invariant is kept by every step. A request in flight keeps the progress that the rules R103,
R113, R114, R122 and R150 give it, and the progress at the last micro-step gives the results of the request.
-/
namespace Sys2Proof.Machine

variable {s : State} {k : Nat}

/-! ### Results at the end of the progress -/

theorem results_clz (h : Op.ofCode s.op = .clz) : s.results = (s.clzCount, 0) := by
  simp only [State.results, h]

theorem results_divmod (h : Op.ofCode s.op = .divmod) : s.results = s.divResults := by
  simp only [State.results, h]

theorem results_mul32 (h : Op.ofCode s.op = .mul32) : s.results = s.mulResults := by
  simp only [State.results, h]

theorem results_mulw (h : Op.ofCode s.op = .mulw) : s.results = s.mulwResults := by
  simp only [State.results, h]

theorem results_rsqrt (h : Op.ofCode s.op = .rsqrt) : s.results = s.rsqrtResults := by
  simp only [State.results, h]

theorem results_reserved (h : (Op.ofCode s.op).reserved = true) : s.results = (0, 0) := by
  unfold State.results
  cases hop : Op.ofCode s.op with
  | op5 | op6 | op7 => rfl
  | clz | divmod | mul32 | mulw | rsqrt => rw [hop] at h; exact absurd h (by decide)

/-- CLZ's count after its five micro-steps (R103). -/
theorem clzCount_eq_clz32 {x : Word} (h : ClzProgress x 5 s) : s.clzCount = BitVec.ofNat 32 (clz32 x) := by
  rw [← (clzCount_of_progress h).1, BitVec.ofNat_toNat, BitVec.setWidth_eq]

/-- DIVMOD's results after its 32 micro-steps: the whole dividend is divided (R113, R115). -/
theorem divResults_of_progress (h : DivProgress 32 s) : s.divResults = divmod32 s.a s.b := by
  by_cases hb : s.b = 0
  · rw [State.divResults, if_pos (h.zdivIff.2 hb), divmod32, if_pos hb]
  · have hq := h.quotient hb
    have hr := h.remainder hb
    simp only [Nat.sub_self, pow_zero, Nat.div_one, Nat.mul_one] at hq hr
    rw [State.divResults, if_neg (mt h.zdivIff.1 hb), divmod32, if_neg hb, ← hq, ← hr]
    simp

/-- MUL32's accumulator after its 32 micro-steps: every bit of the multiplier is used (R122). -/
theorem mulResults_of_progress (h : MulProgress 32 s) : s.mulResults = (s.a * s.b, 0) := by
  have hacc : s.acc = s.a * s.b := by
    apply BitVec.eq_of_toNat_eq
    rw [h.product, Nat.mod_eq_of_lt s.b.isLt, BitVec.toNat_mul]
  rw [State.mulResults, hacc]

/-! ### The progress of the operation in the latch -/

/-- `DatapathProgress` with the number of micro-steps done as an argument of its own. -/
def ProgressAt (k : Nat) (s : State) : Prop :=
  match Op.ofCode s.op with
  | .clz => ClzProgress s.a k s
  | .divmod => DivProgress k s
  | .mul32 => MulProgress k s
  | .rsqrt => RsqrtProgress s.table k s
  | .mulw | .op5 | .op6 | .op7 => True

theorem datapathProgress_iff : DatapathProgress s ↔ ProgressAt s.cnt.toNat s := Iff.rfl

theorem progressAt_clz (h : Op.ofCode s.op = .clz) : ProgressAt k s ↔ ClzProgress s.a k s := by
  simp only [ProgressAt, h]

theorem progressAt_divmod (h : Op.ofCode s.op = .divmod) : ProgressAt k s ↔ DivProgress k s := by
  simp only [ProgressAt, h]

theorem progressAt_mul32 (h : Op.ofCode s.op = .mul32) : ProgressAt k s ↔ MulProgress k s := by
  simp only [ProgressAt, h]

theorem progressAt_rsqrt (h : Op.ofCode s.op = .rsqrt) : ProgressAt k s ↔ RsqrtProgress s.table k s := by
  simp only [ProgressAt, h]

/-- A request of one micro-step has no progress to keep (R199). -/
theorem progressAt_single (h : lat (Op.ofCode s.op) = 1) : ProgressAt k s := by
  unfold ProgressAt
  cases hop : Op.ofCode s.op with
  | mulw | op5 | op6 | op7 => trivial
  | clz | divmod | mul32 | rsqrt => rw [hop] at h; exact absurd h (by decide)

/-! ### A micro-step makes progress -/

theorem ProgressAt.datapath (hlt : s.cnt.toNat + 1 < lat (Op.ofCode s.op)) (h : ProgressAt s.cnt.toNat s) :
    ProgressAt (s.cnt.toNat + 1) s.datapath := by
  have hc := datapath_control s
  have hop' : Op.ofCode s.datapath.op = Op.ofCode s.op := by rw [hc.op]
  cases hop : Op.ofCode s.op with
  | clz =>
    rw [progressAt_clz hop] at h
    rw [progressAt_clz (hop'.trans hop), hc.a, datapath_clz hop]
    simp only [hop, lat] at hlt
    exact clzStep_progress (by omega) h
  | divmod =>
    rw [progressAt_divmod hop] at h
    rw [progressAt_divmod (hop'.trans hop), datapath_divmod hop]
    simp only [hop, lat] at hlt
    exact divStep_progress (by omega) h
  | mul32 =>
    rw [progressAt_mul32 hop] at h
    rw [progressAt_mul32 (hop'.trans hop), datapath_mul32 hop]
    exact mulStep_progress h
  | rsqrt =>
    rw [progressAt_rsqrt hop] at h
    rw [progressAt_rsqrt (hop'.trans hop), hc.table, datapath_rsqrt hop]
    simp only [hop, lat] at hlt
    exact rsqrtStep_progress _ (by omega) h
  | mulw | op5 | op6 | op7 => exact progressAt_single (by rw [hop', hop]; rfl)

/-- The last micro-step and the completion rule give the results of the request in the latch (R21, R197). -/
theorem ProgressAt.results (hlat : s.cnt.toNat + 1 = lat (Op.ofCode s.op)) (h : ProgressAt s.cnt.toNat s) :
    s.datapath.results = requestResult s.table (Op.ofCode s.op) s.a s.b := by
  have hc := datapath_control s
  have hop' : Op.ofCode s.datapath.op = Op.ofCode s.op := by rw [hc.op]
  cases hop : Op.ofCode s.op with
  | clz =>
    rw [hop] at hlat
    rw [progressAt_clz hop] at h
    have hk : s.cnt.toNat = 4 := Nat.succ.inj hlat
    rw [hk] at h
    rw [results_clz (hop'.trans hop), datapath_clz hop, hk, clzCount_eq_clz32 (clzStep_progress (by omega) h)]
    rfl
  | divmod =>
    rw [hop] at hlat
    rw [progressAt_divmod hop] at h
    have hk : s.cnt.toNat = 31 := Nat.succ.inj hlat
    rw [hk] at h
    rw [results_divmod (hop'.trans hop), datapath_divmod hop, hk, divResults_of_progress (divStep_progress (by omega) h),
      (divStep_control 31 s).a, (divStep_control 31 s).b]
    rfl
  | mul32 =>
    rw [hop] at hlat
    rw [progressAt_mul32 hop] at h
    have hk : s.cnt.toNat = 31 := Nat.succ.inj hlat
    rw [hk] at h
    rw [results_mul32 (hop'.trans hop), datapath_mul32 hop, hk, mulResults_of_progress (mulStep_progress h)]
    rfl
  | rsqrt =>
    rw [hop] at hlat
    rw [progressAt_rsqrt hop] at h
    have hk : s.cnt.toNat = 12 := Nat.succ.inj hlat
    rw [hk] at h
    rw [results_rsqrt (hop'.trans hop), datapath_rsqrt hop, hk, rsqrtResults_of_progress _ h]
    rfl
  | mulw => rw [results_mulw (hop'.trans hop), datapath_single (by rw [hop]; rfl)]; rfl
  | op5 | op6 | op7 => rw [results_reserved (by rw [hop', hop]; rfl)]; rfl

/-! ### Registers the progress does not speak of -/

/-- The state with another count and another host's side: what `countStep` and `takeInputs` change. -/
def State.setCountAndHost (c : BitVec 6) (i : List HostStep) (o : List (HostReg × Word)) (s : State) : State :=
  { s with cnt := c, inputs := i, observed := o }

theorem countStep_eq_setCountAndHost : s.countStep = s.setCountAndHost (s.cnt + 1) s.inputs s.observed := rfl

theorem takeInputs_eq_setCountAndHost :
    s.takeInputs = s.setCountAndHost s.cnt s.inputs.tail (s.observed ++ s.readValues s.ports.reads) := rfl

variable (c : BitVec 6) (i : List HostStep) (o : List (HostReg × Word))

theorem ClzProgress.setCountAndHost {x : Word} (h : ClzProgress x k s) : ClzProgress x k (s.setCountAndHost c i o) :=
  ⟨h.countLe, h.window, h.windowLt, h.zeroIff, h.zeroCount⟩

theorem DivProgress.setCountAndHost (h : DivProgress k s) : DivProgress k (s.setCountAndHost c i o) :=
  ⟨h.zdivIff, h.remLt, h.remainder, h.quotient, h.zeroRem, h.zeroQuo⟩

theorem MulProgress.setCountAndHost (h : MulProgress k s) : MulProgress k (s.setCountAndHost c i o) :=
  ⟨h.multiplicand, h.product⟩

theorem RsqrtProgress.setCountAndHost {tbl : Config.Table} (h : RsqrtProgress tbl k s) :
    RsqrtProgress tbl k (s.setCountAndHost c i o) where
  counting hk :=
    have ⟨he, hp⟩ := h.counting hk
    ⟨he, hp.setCountAndHost c i o⟩
  zeroIff := h.zeroIff
  oneIff := h.oneIff
  exponent := h.exponent
  estimate := h.estimate
  square := h.square
  scaled := h.scaled

theorem ProgressAt.setCountAndHost (h : ProgressAt k s) : ProgressAt k (s.setCountAndHost c i o) := by
  have hop' : Op.ofCode (s.setCountAndHost c i o).op = Op.ofCode s.op := rfl
  cases hop : Op.ofCode s.op with
  | clz => exact (progressAt_clz (hop'.trans hop)).2 (((progressAt_clz hop).1 h).setCountAndHost c i o)
  | divmod => exact (progressAt_divmod (hop'.trans hop)).2 (((progressAt_divmod hop).1 h).setCountAndHost c i o)
  | mul32 => exact (progressAt_mul32 (hop'.trans hop)).2 (((progressAt_mul32 hop).1 h).setCountAndHost c i o)
  | rsqrt => exact (progressAt_rsqrt (hop'.trans hop)).2 (((progressAt_rsqrt hop).1 h).setCountAndHost c i o)
  | mulw | op5 | op6 | op7 => exact progressAt_single (by rw [hop', hop]; rfl)

/-! ### The events of a step -/

/-- The load of an acceptance starts the progress of its operation (R101, R111, R120, R143). -/
theorem accepted_progress (i : Instr) (s : State) : DatapathProgress (s.accepted i) := by
  cases i with
  | clz a b => exact clzLoad_progress (s.accept .clz a b)
  | divmod a b => exact divLoad_progress (s.accept .divmod a b)
  | mul32 a b => exact mulLoad_progress (s.accept .mul32 a b)
  | rsqrt a b => exact rsqrtLoad_progress s.table (s.accept .rsqrt a b)
  | mulw | op5 | op6 | op7 => exact trivial

theorem DatapathInv.takeInputs (h : DatapathInv s) : DatapathInv s.takeInputs where
  protocol := h.protocol.takeInputs
  progress hb := by
    rw [datapathProgress_iff, takeInputs_eq_setCountAndHost]
    exact (datapathProgress_iff.1 (h.progress hb)).setCountAndHost _ _ _
  doneResult := h.doneResult

theorem applyReset_datapathInv (s : State) : DatapathInv s.applyReset where
  protocol := applyReset_protocolInv s
  progress hb := absurd hb (by simp)
  doneResult hd := absurd hd (by simp)

theorem accepted_datapathInv (i : Instr) (s : State) : DatapathInv (s.accepted i) where
  protocol := accepted_protocolInv i s
  progress _ := accepted_progress i s
  doneResult hd := absurd hd (by simp [(accepted_spec i s).1.done])

theorem microstep_datapathInv (hb : s.busy = true) (h : DatapathInv s) : DatapathInv s.microstep := by
  obtain ⟨hlt, hf⟩ := h.protocol.inFlight hb
  have hp := datapathProgress_iff.1 (h.progress hb)
  have hc := datapath_control s
  have hcnt := cnt_succ_toNat hlt
  have hprotocol := microstep_protocolInv hb h.protocol
  obtain ⟨hl, hm⟩ | ⟨hl, hm⟩ := microstep_cases s <;> rw [hcnt] at hl <;> rw [hm] at hprotocol ⊢
  · have hr : s.datapath.countStep.results = _ := hp.results hl
    exact ⟨hprotocol, fun hb' => absurd hb' (by simp), fun _ => by simp [hr, hc.op, hc.a, hc.b, hc.table]⟩
  · refine ⟨hprotocol, fun _ => ?_, fun hd => absurd hd (by simp [hc.done, hf.done])⟩
    rw [datapathProgress_iff, State.countStep_cnt, hc.cnt, hcnt, countStep_eq_setCountAndHost]
    exact (hp.datapath (by omega)).setCountAndHost _ _ _

/-- Settles O52: the host's side and each of the unit's events keep the invariant. -/
theorem datapathInvKept : Obligations.DatapathInvKept := by
  intro s t hs h
  exact step_keeps (P := DatapathInv) (fun _ hu => hu.takeInputs) (fun u _ => applyReset_datapathInv u)
    (fun _ hb hu => microstep_datapathInv hb hu) (fun u i _ => accepted_datapathInv i u) hs h

end Sys2Proof.Machine
end

section
/-!
PROOFS. 10_state.md R22, R28, R31 to R34, R36 and R38: the layout of STATUS, the frame of a micro-step, the table, and host reads.
-/
namespace Sys2Proof.Machine

/-! ### The table and STATUS -/

/-- Settles O53: the host's side and each of the unit's events keep the table. -/
theorem tableNeverChanges : Obligations.TableNeverChanges := by
  intro s t h
  exact step_keeps (P := fun u => u.table = s.table) (fun _ hu => hu) (fun _ hu => hu)
    (fun u _ hu => (microstep_latch u).1.table.trans hu)
    (fun u i hu => by obtain ⟨-, -, -, -, -, htable, -⟩ := accepted_spec i u; exact htable.trans hu) rfl h

/-- Each bit of STATUS by its number (R22). -/
theorem statusWord_getLsbD (s : State) (k : Nat) :
    s.statusWord.getLsbD k =
      if k = 0 then s.busy else if k = 1 then s.done else if k = 2 then s.illop else false := by
  rw [State.statusWord]
  simp only [BitVec.getLsbD_append, BitVec.getLsbD_ofBool, BitVec.getLsbD_zero]
  match k with
  | 0 | 1 | 2 => simp
  | k + 3 => simp

/-- Settles O11, bit by bit. -/
theorem statusWordLayout : Obligations.StatusWordLayout := by
  refine ⟨fun s => ⟨?_, ?_, ?_, fun k hk => ?_⟩, rfl, rfl, rfl⟩ <;> rw [statusWord_getLsbD]
  · rfl
  · rfl
  · rfl
  · rw [if_neg (by omega), if_neg (by omega), if_neg (by omega)]

/-! ### The frame of a micro-step -/

/-- `t` holds what `s` holds in the working registers that the operation in `s`'s latch does not own (R31 to R34). -/
structure SameForeign (s t : State) : Prop where
  clz : Op.ofCode s.op ≠ .clz → Op.ofCode s.op ≠ .rsqrt → t.n = s.n ∧ t.v = s.v
  divmod : Op.ofCode s.op ≠ .divmod → t.rem = s.rem ∧ t.quo = s.quo
  mul32 : Op.ofCode s.op ≠ .mul32 → t.acc = s.acc ∧ t.ma = s.ma
  rsqrt : Op.ofCode s.op ≠ .rsqrt → t.exp = s.exp ∧ t.y = s.y ∧ t.y2 = s.y2 ∧ t.xy2 = s.xy2 ∧ t.edge = s.edge

theorem datapath_foreign (s : State) : SameForeign s s.datapath := by
  cases hop : Op.ofCode s.op with
  | clz =>
    rw [datapath_clz hop, clzStep_frame]
    exact ⟨fun h => absurd hop h, fun _ => ⟨rfl, rfl⟩, fun _ => ⟨rfl, rfl⟩, fun _ => ⟨rfl, rfl, rfl, rfl, rfl⟩⟩
  | divmod =>
    rw [datapath_divmod hop, divStep_frame]
    exact ⟨fun _ _ => ⟨rfl, rfl⟩, fun h => absurd hop h, fun _ => ⟨rfl, rfl⟩, fun _ => ⟨rfl, rfl, rfl, rfl, rfl⟩⟩
  | mul32 =>
    rw [datapath_mul32 hop]
    exact ⟨fun _ _ => ⟨rfl, rfl⟩, fun _ => ⟨rfl, rfl⟩, fun h => absurd hop h, fun _ => ⟨rfl, rfl, rfl, rfl, rfl⟩⟩
  | rsqrt =>
    rw [datapath_rsqrt hop]
    have ho := rsqrtStep_other s.table s.cnt.toNat s
    exact ⟨fun _ h => absurd hop h, fun _ => ⟨ho.rem, ho.quo⟩, fun _ => ⟨ho.acc, ho.ma⟩, fun h => absurd hop h⟩
  | mulw | op5 | op6 | op7 =>
    rw [datapath_single (by rw [hop]; rfl)]
    exact ⟨fun _ _ => ⟨rfl, rfl⟩, fun _ => ⟨rfl, rfl⟩, fun _ => ⟨rfl, rfl⟩, fun _ => ⟨rfl, rfl, rfl, rfl, rfl⟩⟩

/-- Counting and completing write no working register (R196, R197). -/
theorem microstep_foreign (s : State) : SameForeign s s.microstep := by
  have h := datapath_foreign s
  obtain ⟨-, hm⟩ | ⟨-, hm⟩ := microstep_cases s <;> rw [hm] <;> exact ⟨h.clz, h.divmod, h.mul32, h.rsqrt⟩

/-- Settles O18: a busy unit's event is a micro-step, whichever request is offered. -/
theorem microstepFrame : Obligations.MicrostepFrame := by
  intro i s hb
  obtain ⟨hl, -⟩ := microstep_latch s
  have hf := microstep_foreign s
  exact ⟨s.microstep, exec_busy hb i, hl.op, hl.a, hl.b, hl.zdiv, hl.table, hl.inputs, hl.observed, hl.freeCount,
    fun h0 h4 => hf.clz (mt eq_code_of_ofCode h0) (mt eq_code_of_ofCode h4),
    fun h1 => hf.divmod (mt eq_code_of_ofCode h1),
    fun h2 => hf.mul32 (mt eq_code_of_ofCode h2),
    fun h4 => hf.rsqrt (mt eq_code_of_ofCode h4)⟩

/-! ### Host reads -/

/-- The state with another list of values read. -/
def State.withObserved (o : List (HostReg × Word)) (s : State) : State := { s with observed := o }

variable (o : List (HostReg × Word)) (s : State)

theorem clzStep_withObserved (k : Nat) : (s.withObserved o).clzStep k = (s.clzStep k).withObserved o := by
  obtain ⟨ht, h⟩ | ⟨ht, h⟩ := clzStep_cases k s <;> rw [h]
  · exact if_pos ht
  · exact if_neg (not_not.2 ht)

theorem divStep_withObserved (k : Nat) : (s.withObserved o).divStep k = (s.divStep k).withObserved o := by
  obtain ⟨hd, h⟩ | ⟨hd, h⟩ := divStep_cases k s <;> rw [h] <;>
    obtain ⟨hd', h'⟩ | ⟨hd', h'⟩ := divStep_cases k (s.withObserved o) <;> rw [h']
  · rfl
  · exact absurd hd' (not_lt.2 hd)
  · exact absurd hd (not_lt.2 hd')
  · rfl

theorem unlessEdge_withObserved {t u : State} (h : u = t.withObserved o) :
    (s.withObserved o).unlessEdge u = (s.unlessEdge t).withObserved o := by
  rw [h]
  exact (apply_ite (State.withObserved o) (s.edge = .none) t s).symm

theorem rsqrtSeed_withObserved (tbl : Config.Table) :
    (s.withObserved o).rsqrtSeed tbl = (s.rsqrtSeed tbl).withObserved o := by
  obtain ⟨h0, h⟩ | ⟨h1, h⟩ | ⟨h0, h1, h⟩ := rsqrtSeed_cases tbl s <;> rw [h]
  · exact if_pos h0
  · exact (if_neg (by rw [show (s.withObserved o).a = 1 from h1]; decide)).trans (if_pos h1)
  · exact (if_neg h0).trans (if_neg h1)

theorem rsqrtStep_withObserved (tbl : Config.Table) (k : Nat) :
    (s.withObserved o).rsqrtStep tbl k = (s.rsqrtStep tbl k).withObserved o := by
  match k with
  | 0 | 1 | 2 | 3 | 4 => exact clzStep_withObserved o s _
  | 5 => exact rsqrtSeed_withObserved o s tbl
  | 6 | 7 | 8 | 9 | 10 | 11 | 12 => exact unlessEdge_withObserved o s rfl
  | _ + 13 => rfl

theorem datapath_withObserved : (s.withObserved o).datapath = s.datapath.withObserved o := by
  have hop' : Op.ofCode (s.withObserved o).op = Op.ofCode s.op := rfl
  cases hop : Op.ofCode s.op with
  | clz => rw [datapath_clz hop, datapath_clz (hop'.trans hop)]; exact clzStep_withObserved o s _
  | divmod => rw [datapath_divmod hop, datapath_divmod (hop'.trans hop)]; exact divStep_withObserved o s _
  | mul32 => rw [datapath_mul32 hop, datapath_mul32 (hop'.trans hop)]; rfl
  | rsqrt => rw [datapath_rsqrt hop, datapath_rsqrt (hop'.trans hop)]; exact rsqrtStep_withObserved o s _ _
  | mulw | op5 | op6 | op7 =>
    rw [datapath_single (s := s) (by rw [hop]; rfl), datapath_single (by rw [hop', hop]; rfl)]

theorem microstep_withObserved : (s.withObserved o).microstep = s.microstep.withObserved o := by
  rw [State.microstep, datapath_withObserved]
  exact (apply_ite (State.withObserved o) (s.datapath.countStep.atLat = true) s.datapath.countStep.complete
    s.datapath.countStep).symm

theorem accepted_withObserved (i : Instr) : (s.withObserved o).accepted i = (s.accepted i).withObserved o := by
  cases i <;> rfl

/-- Nothing of the unit reads what the host has observed (R38). -/
theorem unitEvent_withObserved (p : HostStep) : (s.withObserved o).unitEvent p = (s.unitEvent p).withObserved o := by
  unfold State.unitEvent
  rw [apply_ite (State.withObserved o), apply_ite (State.withObserved o), microstep_withObserved]
  cases p.req with
  | none => rfl
  | some r => simp only [accepted_withObserved]; rfl

/-- The host's side of a step without its reads: nothing is observed. -/
theorem takeInputs_without_reads {s : State} {h : HostStep} {rest : List HostStep} (hin : s.inputs = h :: rest) :
    State.takeInputs { s with inputs := { h with reads := [] } :: rest } = s.takeInputs.withObserved s.observed := by
  simp [State.takeInputs, State.withObserved, State.readValues, State.ports, hin]

theorem step_without_reads {s : State} {h : HostStep} {rest : List HostStep} (hin : s.inputs = h :: rest) :
    step { s with inputs := { h with reads := [] } :: rest } =
      .next ((s.takeInputs.unitEvent h).withObserved s.observed) := by
  rw [step_eq_unitEvent rfl, takeInputs_without_reads hin, unitEvent_withObserved]
  rfl

/-- Settles O13: the unit's event carries a difference in the values observed through, and makes no other. -/
theorem hostReadsChangeNothing : Obligations.HostReadsChangeNothing := by
  intro s h rest hin hsafe
  have hports : s.ports = h := by rw [State.ports, hin]; rfl
  have hstep : step s = .next (s.takeInputs.unitEvent h) := by
    rw [step_eq_unitEvent (Option.isNone_iff_eq_none.1 hsafe), hports]
  exact ⟨_, _, hstep, step_without_reads hin, rfl⟩

end Sys2Proof.Machine
end

section
/-!
PROOFS. 20_memory.md R57: a request accepted by an idle unit completes after LAT steps with the results of its operation's pure function,
whatever state the unit was in and whatever its host offers meanwhile (70_reset_and_hazards.md R195 to R197, R199).
-/
namespace Sys2Proof.Machine

variable {s t : State} {k : Nat} {x0 x1 : Word} {ill : Bool}

/-! ### Steps under a polite host -/

theorem runSteps_succ_of_step (h : step s = .next t) (k : Nat) : runSteps (k + 1) s = runSteps k t := by
  rw [runSteps, h]

theorem undisturbed_congr (h : t.inputs = s.inputs) (k : Nat) : t.undisturbed k = s.undisturbed k := by
  rw [State.undisturbed, State.undisturbed, h]

/-- The host is polite for `k + 1` steps: at the coming one, and at the `k` that follow. -/
theorem undisturbed_succ (s : State) (k : Nat) :
    s.undisturbed (k + 1) = (s.ports.polite && s.takeInputs.undisturbed k) := by
  simp only [State.undisturbed, State.ports, State.takeInputs_inputs]
  cases s.inputs with
  | nil => simp [HostStep.polite, HostStep.quiet]
  | cons h rest => simp

/-- A polite host reads STATUS alone, and STATUS always holds a value (R200). -/
theorem noValueRead_of_polite {h : HostStep} (hp : h.polite = true) (s : State) : s.noValueRead h.reads = none := by
  have hreads : ∀ r ∈ h.reads, r = .status := by
    simp only [HostStep.polite, Bool.and_eq_true, List.all_eq_true, beq_iff_eq] at hp
    exact hp.2
  refine List.find?_eq_none.2 fun r hr => ?_
  rw [hreads r hr]
  exact Bool.false_ne_true

/-- Under a polite host a busy unit's step is a micro-step, whatever is offered (R194, R196). -/
theorem step_busy_of_polite (hb : s.busy = true) (hp : s.ports.polite = true) : step s = .next s.takeInputs.microstep := by
  have hrst : s.ports.rst = false := by
    simp only [HostStep.polite, Bool.and_eq_true, Bool.not_eq_true'] at hp
    exact hp.1
  rw [step_eq_unitEvent (noValueRead_of_polite hp s), State.unitEvent, hrst]
  simp [hb]

/-! ### From a micro-step to the completion -/

theorem CompletesAfter.zero (h : Completed x0 x1 ill s) : CompletesAfter 0 x0 x1 ill s :=
  ⟨fun _ hj => absurd hj (Nat.not_lt_zero _), fun _ => ⟨s, rfl, h⟩⟩

/-- A request in flight has one micro-step more to go than after its next micro-step. -/
theorem CompletesAfter.succ (hf : InFlight s) (h : CompletesAfter k x0 x1 ill s.takeInputs.microstep) :
    CompletesAfter (k + 1) x0 x1 ill s := by
  obtain ⟨hflight, hcomplete⟩ := h
  have hnext : ∀ j, s.undisturbed (j + 1) = true →
      s.takeInputs.microstep.undisturbed j = true ∧ runSteps (j + 1) s = runSteps j s.takeInputs.microstep := by
    intro j hu
    rw [undisturbed_succ, Bool.and_eq_true] at hu
    obtain ⟨hpolite, hrest⟩ := hu
    obtain ⟨hl, -⟩ := microstep_latch s.takeInputs
    exact ⟨(undisturbed_congr hl.inputs j).trans hrest, runSteps_succ_of_step (step_busy_of_polite hf.busy hpolite) j⟩
  constructor
  · intro j hj hu
    cases j with
    | zero => exact ⟨s, rfl, hf⟩
    | succ j =>
      obtain ⟨hu', hrun⟩ := hnext j hu
      rw [hrun]
      exact hflight j (Nat.lt_of_succ_lt_succ hj) hu'
  · intro hu
    obtain ⟨hu', hrun⟩ := hnext k hu
    rw [hrun]
    exact hcomplete hu'

/-- What the invariant says of a unit with DONE = 1 (R21, R25, R26). -/
theorem DatapathInv.completed (h : DatapathInv s) (hd : s.done = true) :
    Completed (requestResult s.table (Op.ofCode s.op) s.a s.b).1 (requestResult s.table (Op.ofCode s.op) s.a s.b).2
      (Op.ofCode s.op).reserved s := by
  obtain ⟨hbusy, -, -⟩ := h.protocol.doneHolds hd
  obtain ⟨hr0, hr1⟩ := h.doneResult hd
  refine ⟨hr0, hr1, hbusy, hd, Bool.eq_iff_iff.2 ?_⟩
  rw [h.protocol.illopIff]
  exact and_iff_right hd

/-- The last micro-step of a request in flight leaves it done (R197). -/
theorem microstep_done (h : (s.cnt + 1).toNat = lat (Op.ofCode s.op)) : s.microstep.done = true := by
  obtain ⟨-, hm⟩ | ⟨hne, -⟩ := microstep_cases s
  · rw [hm]; rfl
  · exact absurd h hne

/-- An earlier micro-step leaves it in flight (R196). -/
theorem microstep_busy (hb : s.busy = true) (h : (s.cnt + 1).toNat ≠ lat (Op.ofCode s.op)) : s.microstep.busy = true := by
  obtain ⟨he, -⟩ | ⟨-, hm⟩ := microstep_cases s
  · exact absurd he h
  · rw [hm]; exact (datapath_control s).busy.trans hb

/-- A request in flight with `k + 1` micro-steps to go completes after them with its results (R21, R199). -/
theorem DatapathInv.completesAfter (h : DatapathInv s) (hb : s.busy = true)
    (hk : s.cnt.toNat + (k + 1) = lat (Op.ofCode s.op)) :
    CompletesAfter (k + 1) (requestResult s.table (Op.ofCode s.op) s.a s.b).1
      (requestResult s.table (Op.ofCode s.op) s.a s.b).2 (Op.ofCode s.op).reserved s := by
  induction k generalizing s with
  | zero =>
    obtain ⟨hlt, hf⟩ := h.protocol.inFlight hb
    obtain ⟨hl, -⟩ := microstep_latch s.takeInputs
    have hdone := microstep_done (s := s.takeInputs) ((cnt_succ_toNat hlt).trans hk)
    have hc := (microstep_datapathInv (s := s.takeInputs) hb h.takeInputs).completed hdone
    rw [hl.table, hl.op, hl.a, hl.b] at hc
    exact .succ hf (.zero hc)
  | succ k ih =>
    obtain ⟨hlt, hf⟩ := h.protocol.inFlight hb
    obtain ⟨hl, hcnt⟩ := microstep_latch s.takeInputs
    have hcnt' : s.takeInputs.microstep.cnt.toNat = s.cnt.toNat + 1 :=
      (congrArg BitVec.toNat hcnt).trans (cnt_succ_toNat hlt)
    have hbusy := microstep_busy (s := s.takeInputs) hb (by
      rw [State.takeInputs_cnt, State.takeInputs_op, cnt_succ_toNat hlt]; omega)
    have hc := ih (microstep_datapathInv (s := s.takeInputs) hb h.takeInputs) hbusy (by
      rw [hl.op, State.takeInputs_op, hcnt']; omega)
    rw [hl.table, hl.op, hl.a, hl.b] at hc
    exact .succ hf hc

/-! ### From the acceptance to the completion -/

/-- An idle unit in any state accepts a request and completes it after LAT steps (R195, R199). -/
theorem acceptedAndCompletes_of_idle (hidle : s.busy = false) (i : Instr) :
    AcceptedAndCompletes s i (lat i.op) (requestResult s.table i.op i.a i.b).1 (requestResult s.table i.op i.a i.b).2
      i.op.reserved := by
  obtain ⟨hf, hop, ha, hb, hcnt, htable, hinputs, -⟩ := accepted_spec i s
  have hop' : Op.ofCode (s.accepted i).op = i.op := by rw [hop, ofCode_code]
  obtain ⟨k, hk⟩ := Nat.exists_eq_succ_of_ne_zero (lat_pos i.op).ne'
  have hc := (accepted_datapathInv i s).completesAfter (k := k) hf.busy (by
    rw [hop', hk, hcnt]; exact Nat.zero_add _)
  rw [hop', ha, hb, htable] at hc
  rw [hk]
  exact ⟨s.accepted i, exec_idle hidle i, hinputs, hc⟩

/-- The completed run of an accepted request under a polite host. -/
theorem AcceptedAndCompletes.run {i : Instr} (h : AcceptedAndCompletes s i k x0 x1 ill) (hu : s.undisturbed k = true) :
    ∃ t u, exec i s = .next t ∧ runSteps k t = .next u ∧ Completed x0 x1 ill u := by
  obtain ⟨t, hexec, hinputs, -, hcomplete⟩ := h
  obtain ⟨u, hrun, hc⟩ := hcomplete ((undisturbed_congr hinputs k).trans hu)
  exact ⟨t, u, hexec, hrun, hc⟩

/-- Completions with the same results show the host the same R0, R1 and STATUS (R22, R197). -/
theorem Completed.agree (h : Completed x0 x1 ill s) (h' : Completed x0 x1 ill t) :
    s.r0 = t.r0 ∧ s.r1 = t.r1 ∧ s.statusWord = t.statusWord := by
  refine ⟨h.r0.trans h'.r0.symm, h.r1.trans h'.r1.symm, ?_⟩
  rw [State.statusWord, State.statusWord, h.busy, h.done, h.illop, h'.busy, h'.done, h'.illop]

/-- Settles O56: each unit completes the request with the results of the pure function, which reads the table and the
operands alone. -/
theorem resultsIndependentOfHistory : Obligations.ResultsIndependentOfHistory := by
  intro i s s' htable hb hb' hu hu'
  obtain ⟨t, u, hexec, hrun, hc⟩ := (acceptedAndCompletes_of_idle hb i).run hu
  obtain ⟨t', u', hexec', hrun', hc'⟩ := (acceptedAndCompletes_of_idle hb' i).run hu'
  rw [← htable] at hc'
  obtain ⟨hr0, hr1, hstatus⟩ := hc.agree hc'
  exact ⟨t, t', u, u', hexec, hexec', hrun, hrun', hr0, hr1, hstatus, hc.done⟩

end Sys2Proof.Machine
end

section
/-!
PROOFS. 30_encoding.md R70 to R73 and R77: the request word taken apart and put together, the rows of the opcode table, and the
written form of a request.
-/
namespace Sys2Proof

/-! ### The request word -/

/-- An instruction is its operation and its operands (R70). -/
theorem make_parts (i : Instr) : Instr.make i.op i.a i.b = i := by cases i <;> rfl

theorem make_op (o : Op) (a b : Word) : (Instr.make o a b).op = o := by cases o <;> rfl

theorem make_a (o : Op) (a b : Word) : (Instr.make o a b).a = a := by cases o <;> rfl

theorem make_b (o : Op) (a b : Word) : (Instr.make o a b).b = b := by cases o <;> rfl

/-- No value of A or B makes a request illegal (R73). -/
theorem wellFormed_all (i : Instr) : i.wellFormed = true := by cases i <;> rfl

/-- Decoding takes the three fields of the word apart (R70, R73). -/
theorem decode_encode (i : Instr) : decode (encode i) = i := by
  rw [decode, encode, reqOp_append, reqA_append, reqB_append, Machine.ofCode_code, make_parts]

/-- The three fields are the whole word (R70). -/
theorem fields_append (w : BitVec 67) : reqOp w ++ reqB w ++ reqA w = w := by
  have hhigh : reqOp w ++ reqB w = w.extractLsb' 32 35 := BitVec.extractLsb'_append_extractLsb'_eq_extractLsb' rfl
  have hall : w.extractLsb' 32 35 ++ reqA w = w.extractLsb' 0 67 := BitVec.extractLsb'_append_extractLsb'_eq_extractLsb' rfl
  rw [hhigh, hall, BitVec.extractLsb'_eq_self]

theorem encode_decode (w : BitVec 67) : encode (decode w) = w := by
  rw [decode, encode, make_op, make_a, make_b, Machine.code_ofCode, fields_append]

theorem decode_op (w : BitVec 67) : (decode w).op = Op.ofCode (reqOp w) := make_op ..

/-- The request word is (OP << 64) | (B << 32) | A (R77). -/
theorem encode_toNat (i : Instr) :
    (encode i).toNat = i.op.code.toNat * 2 ^ 64 + i.b.toNat * 2 ^ 32 + i.a.toNat := by
  rw [encode, BitVec.toNat_append, BitVec.toNat_append, ← Nat.shiftLeft_add_eq_or_of_lt i.a.isLt,
    ← Nat.shiftLeft_add_eq_or_of_lt i.b.isLt, Nat.shiftLeft_eq, Nat.shiftLeft_eq]
  ring

/-! ### The word laid out in bytes (log 10) -/

@[simp] theorem bytesOfNat_length (n w : Nat) : (bytesOfNat n w).length = n := by
  induction n generalizing w with
  | zero => rfl
  | succ n ih => simp [bytesOfNat, ih]

/-- Reading `n` bytes back loses what stands above them. -/
theorem natOfBytes_bytesOfNat (n w : Nat) : natOfBytes (bytesOfNat n w) = w % 256 ^ n := by
  induction n generalizing w with
  | zero => simp [bytesOfNat, natOfBytes, Nat.mod_one]
  | succ n ih => rw [bytesOfNat, natOfBytes, ih, pow_succ', Nat.mod_mul, BitVec.toNat_ofNat]

/-- Nine bytes that hold a request word decode to its request. -/
theorem decodeBytes_bytesOfNat (w : BitVec 67) : decodeBytes (bytesOfNat 9 w.toNat) = .ok (decode w) := by
  have hw := w.isLt
  have hbytes : natOfBytes (bytesOfNat 9 w.toNat) = w.toNat := by
    rw [natOfBytes_bytesOfNat, Nat.mod_eq_of_lt (by omega)]
  rw [decodeBytes, bytesOfNat_length, if_neg (by omega), hbytes, if_neg (by omega), BitVec.ofNat_toNat, BitVec.setWidth_eq]

/-- A table row as wide as the request word, up to the nine bytes that hold it, decodes to the word's request. -/
theorem decodeTableWord_toNat {nbits : Nat} (hlow : 67 ≤ nbits) (hhigh : nbits ≤ 72) (w : BitVec 67) :
    decodeTableWord nbits w.toNat = some (decode w) := by
  have hbytes : max 9 ((nbits + 7) / 8) = 9 := by omega
  have hfits : w.toNat % 2 ^ nbits = w.toNat :=
    Nat.mod_eq_of_lt (w.isLt.trans_le (Nat.pow_le_pow_right (by omega) hlow))
  rw [decodeTableWord, hbytes, hfits, decodeBytes_bytesOfNat]

/-! ### The rows of the opcode table -/

/-- The bits of every row's mask are those of OP (R73). -/
theorem opMask_getLsbD : ∀ j < 67, (0b111#67 <<< 64).getLsbD j = decide (64 ≤ j) := by decide

/-- The bits under the mask of every row are OP at its place (R73). -/
theorem and_opMask (w : BitVec 67) : w &&& 0b111#67 <<< 64 = (reqOp w).setWidth 67 <<< 64 := by
  apply BitVec.eq_of_getLsbD_eq
  intro j hj
  rw [BitVec.getLsbD_and, opMask_getLsbD j hj]
  by_cases h : 64 ≤ j
  · simp [reqOp, hj, h, show j - 64 < 3 by omega]
  · simp [h, show j < 64 by omega]

theorem setWidth_shift_injective {c d : BitVec 3} (h : c.setWidth 67 <<< 64 = d.setWidth 67 <<< 64) : c = d := by
  revert c d; decide

/-- Mask and match of every row, as R73 gives them. -/
theorem opcodeRows_spec : ∀ r ∈ opcodeRows, r.mask = 0b111#67 <<< 64 ∧ r.pattern = r.op.code.setWidth 67 <<< 64 := by
  decide

theorem selects_iff {r : OpcodeRow} (hr : r ∈ opcodeRows) (w : BitVec 67) : r.selects w = true ↔ r.op = (decode w).op := by
  obtain ⟨hmask, hpattern⟩ := opcodeRows_spec r hr
  rw [OpcodeRow.selects, beq_iff_eq, hmask, hpattern, and_opMask, decode_op]
  constructor
  · intro h
    rw [setWidth_shift_injective h, Machine.ofCode_code]
  · intro h
    rw [h, Machine.code_ofCode]

theorem exists_row (o : Op) : ∃ r ∈ opcodeRows, r.op = o := by cases o <;> decide

theorem row_eq_of_op_eq : ∀ r ∈ opcodeRows, ∀ r' ∈ opcodeRows, r'.op = r.op → r' = r := by decide

/-! ### Written requests -/

variable {op : Op} {x y : Nat}

theorem assemble_one (hop : op.writtenOperands = 1) (hx : x < 2 ^ 32) :
    (Written.mk op [x]).assemble = some (Instr.make op (BitVec.ofNat 32 x) 0) := by
  have hwf : (Written.mk op [x]).wellFormed = true := by
    simpa [Written.wellFormed, Written.arityOk, Written.rangesOk, hop] using hx
  exact if_pos hwf

theorem assemble_two (hop : op.writtenOperands = 2) (hx : x < 2 ^ 32) (hy : y < 2 ^ 32) :
    (Written.mk op [x, y]).assemble = some (Instr.make op (BitVec.ofNat 32 x) (BitVec.ofNat 32 y)) := by
  have hwf : (Written.mk op [x, y]).wellFormed = true := by
    simpa [Written.wellFormed, Written.arityOk, Written.rangesOk, hop] using And.intro hx hy
  exact if_pos hwf

theorem assemble_out_of_range {xs : List Nat} (hx : 2 ^ 32 ≤ x) (hmem : x ∈ xs) : (Written.mk op xs).assemble = none := by
  have hranges : (Written.mk op xs).rangesOk = false :=
    List.all_eq_false.2 ⟨x, hmem, by simpa using hx⟩
  exact if_neg (by simp [Written.wellFormed, hranges])

/-- Every operation but CLZ and RSQRT is written with two operands (R77). -/
theorem writtenOperands_two (hclz : op ≠ .clz) (hrsqrt : op ≠ .rsqrt) : op.writtenOperands = 2 := by
  cases op with
  | clz => exact absurd rfl hclz
  | rsqrt => exact absurd rfl hrsqrt
  | divmod | mul32 | mulw | op5 | op6 | op7 => rfl

/-- A line with a label, a host variable, a hexadecimal operand and a comment reads as its mnemonic and operands (R77, log 15). -/
theorem readLine_labelled (n : Nat) :
    Machine.readLine [(['n'], n)] "loop: DIVMOD n, 0xA ; the next digit".toList = some ⟨.divmod, [n, 10]⟩ := rfl

/-! ### The obligations -/

/-- Settles O2: the fields come apart as they were put together, in 67 bits and in nine bytes. -/
theorem decodeAfterEncodeIsIdentity : Obligations.DecodeAfterEncodeIsIdentity := by
  intro i _
  have htable : ∀ nbits, 67 ≤ nbits → nbits ≤ 72 → decodeTableWord nbits (encode i).toNat = some i :=
    fun nbits hlow hhigh => by rw [decodeTableWord_toNat hlow hhigh, decode_encode]
  exact ⟨decode_encode i, htable 72 (by omega) (by omega), htable 67 (by omega) (by omega)⟩

/-- Settles O3: encoding and decoding are inverse to each other. -/
theorem everyRequestWordHasOneMeaning : Obligations.EveryRequestWordHasOneMeaning := by
  intro w
  refine ⟨encode_decode w, ?_⟩
  rintro i rfl
  exact (decode_encode i).symm

/-- Settles O4: a row selects the words whose decoded operation is its own. -/
theorem decodingUsesOpAlone : Obligations.DecodingUsesOpAlone := by
  refine ⟨fun w => ?_, fun w w' h => ?_, fun w => wellFormed_all _, opcodeRows_spec⟩
  · obtain ⟨r, hr, hop⟩ := exists_row (decode w).op
    refine ⟨r, hr, (selects_iff hr w).2 hop, hop, fun r' hr' hsel => ?_⟩
    exact row_eq_of_op_eq r hr r' hr' (((selects_iff hr' w).1 hsel).trans hop.symm)
  · rw [decode_op, decode_op, reqOp, h, reqOp]

/-- Settles O5: the concatenation as a number, and its three fields. -/
theorem requestWordLayout : Obligations.RequestWordLayout := by
  intro i
  exact ⟨encode_toNat i, reqOp_append _ _ _, reqB_append _ _ _, reqA_append _ _ _⟩

/-- Settles O1: each word is the encoding of the request beside it. -/
theorem requestWordsOfTheSpecDecode : Obligations.RequestWordsOfTheSpecDecode := by
  unfold Obligations.RequestWordsOfTheSpecDecode
  decide

/-- Settles O6: the assembler form by form, and each text read as its mnemonic and operands. -/
theorem writtenRequestsAssemble : Obligations.WrittenRequestsAssemble := by
  refine ⟨fun x hx => ⟨assemble_one rfl hx, assemble_one rfl hx⟩,
    fun op hclz hrsqrt x hx y hy => assemble_two (writtenOperands_two hclz hrsqrt) hx hy,
    fun op x xs hx hmem => assemble_out_of_range hx hmem, by decide, fun n hn => ?_⟩
  rw [Machine.assembleLine, readLine_labelled, Option.bind_some, assemble_two rfl hn (by omega)]
  rfl

end Sys2Proof
end

section
/-!
PROOFS. 30_encoding.md R74 and R75: the reserved codes, and the operands an operation ignores.
-/
namespace Sys2Proof.Machine

variable {s : State}

/-! ### The reserved codes -/

theorem lat_reserved {o : Op} (h : o.reserved = true) : lat o = 1 := by
  cases o with
  | op5 | op6 | op7 => rfl
  | clz | divmod | mul32 | mulw | rsqrt => exact absurd h (by decide)

/-- The codes 5, 6 and 7 are the reserved ones (R75). -/
theorem reserved_of_code {c : BitVec 3} (h : c = 5 ∨ c = 6 ∨ c = 7) : (Op.ofCode c).reserved = true := by
  obtain rfl | rfl | rfl := h <;> rfl

/-- The one micro-step of a reserved code completes it (R75, R197, R199). -/
theorem microstep_reserved (hres : (Op.ofCode s.op).reserved = true) (hcnt : s.cnt = 0) :
    s.microstep = { s with cnt := 1, r0 := some 0, r1 := some 0, busy := false, done := true, illop := true } := by
  have hlat := lat_reserved hres
  have hresults : s.countStep.results = (0, 0) := results_reserved hres
  obtain ⟨-, hm⟩ | ⟨hne, -⟩ := microstep_cases s
  · rw [hm, datapath_single hlat, State.complete, hresults, State.countStep_op, hres, State.countStep, hcnt]
    rfl
  · exact absurd (by rw [hlat, hcnt]; rfl) hne

/-- Settles O25: a busy unit's event is the micro-step of its latch, whichever request is offered. -/
theorem reservedMicrostep : Obligations.ReservedMicrostep := by
  intro i s hb hop hcnt
  rw [exec_busy hb, microstep_reserved (reserved_of_code hop) hcnt]

/-- Settles O45: a reserved code takes LAT = 1, and its pure result is (0, 0). -/
theorem reservedResult : Obligations.ReservedResult := by
  intro s a b hb
  exact ⟨acceptedAndCompletes_of_idle hb (.op5 a b), acceptedAndCompletes_of_idle hb (.op6 a b),
    acceptedAndCompletes_of_idle hb (.op7 a b)⟩

/-! ### Ignored operands -/

/-- The operation ignores a change of its operand A from `a` to `a'` together with any change of B (R74). -/
def IgnoresChange (a a' : Word) : Op → Prop
  | .clz | .rsqrt => a' = a
  | .op5 | .op6 | .op7 => True
  | .divmod | .mul32 | .mulw => False

/-- The state with other operands in the latch. -/
def State.withOperands (a b : Word) (s : State) : State := { s with a := a, b := b }

variable {a' : Word} (b' : Word)

theorem clzStep_withOperands (a' b' : Word) (k : Nat) (s : State) :
    (s.withOperands a' b').clzStep k = (s.clzStep k).withOperands a' b' := by
  obtain ⟨ht, h⟩ | ⟨ht, h⟩ := clzStep_cases k s <;> rw [h]
  · exact if_pos ht
  · exact if_neg (not_not.2 ht)

theorem rsqrtSeed_withB (tbl : Config.Table) (s : State) :
    (s.withOperands s.a b').rsqrtSeed tbl = (s.rsqrtSeed tbl).withOperands s.a b' := by
  obtain ⟨h0, h⟩ | ⟨h1, h⟩ | ⟨h0, h1, h⟩ := rsqrtSeed_cases tbl s <;> rw [h]
  · exact if_pos h0
  · exact (if_neg (by rw [show (s.withOperands s.a b').a = 1 from h1]; decide)).trans (if_pos h1)
  · exact (if_neg h0).trans (if_neg h1)

theorem unlessEdge_withOperands (a' b' : Word) {s t u : State} (h : u = t.withOperands a' b') :
    (s.withOperands a' b').unlessEdge u = (s.unlessEdge t).withOperands a' b' := by
  rw [h]
  exact (apply_ite (State.withOperands a' b') (s.edge = .none) t s).symm

/-- No micro-step of RSQRT reads `S.b` (R150). -/
theorem rsqrtStep_withB (tbl : Config.Table) (k : Nat) (s : State) :
    (s.withOperands s.a b').rsqrtStep tbl k = (s.rsqrtStep tbl k).withOperands s.a b' := by
  match k with
  | 0 | 1 | 2 | 3 | 4 => exact clzStep_withOperands s.a b' _ s
  | 5 => exact rsqrtSeed_withB b' tbl s
  | 6 | 7 | 8 | 9 | 10 | 11 | 12 => exact unlessEdge_withOperands s.a b' rfl
  | _ + 13 => rfl

theorem datapath_withOperands (h : IgnoresChange s.a a' (Op.ofCode s.op)) :
    (s.withOperands a' b').datapath = s.datapath.withOperands a' b' := by
  have hop' : Op.ofCode (s.withOperands a' b').op = Op.ofCode s.op := rfl
  cases hop : Op.ofCode s.op with
  | clz => rw [datapath_clz hop, datapath_clz (hop'.trans hop)]; exact clzStep_withOperands a' b' _ s
  | rsqrt =>
    rw [hop] at h
    obtain rfl : a' = s.a := h
    rw [datapath_rsqrt hop, datapath_rsqrt (hop'.trans hop)]
    exact rsqrtStep_withB b' s.table _ s
  | op5 | op6 | op7 =>
    rw [datapath_single (s := s) (by rw [hop]; rfl), datapath_single (by rw [hop', hop]; rfl)]
  | divmod | mul32 | mulw => rw [hop] at h; exact h.elim

/-- The completion rules of CLZ, RSQRT and the reserved codes read no operand (R75, R101, R151). -/
theorem results_withOperands (h : IgnoresChange s.a a' (Op.ofCode s.op)) :
    (s.withOperands a' b').results = s.results := by
  have hop' : Op.ofCode (s.withOperands a' b').op = Op.ofCode s.op := rfl
  cases hop : Op.ofCode s.op with
  | clz => rw [results_clz hop, results_clz (hop'.trans hop)]; rfl
  | rsqrt => rw [results_rsqrt hop, results_rsqrt (hop'.trans hop)]; rfl
  | op5 | op6 | op7 => rw [results_reserved (s := s) (by rw [hop]; rfl), results_reserved (by rw [hop', hop]; rfl)]
  | divmod | mul32 | mulw => rw [hop] at h; exact h.elim

theorem microstep_withOperands (h : IgnoresChange s.a a' (Op.ofCode s.op)) :
    (s.withOperands a' b').microstep = s.microstep.withOperands a' b' := by
  have hc := datapath_control s
  have hresults : (s.datapath.countStep.withOperands a' b').results = s.datapath.countStep.results :=
    results_withOperands b' (by rw [State.countStep_op, State.countStep_a, hc.op, hc.a]; exact h)
  have hcomplete : (s.datapath.countStep.withOperands a' b').complete = s.datapath.countStep.complete.withOperands a' b' := by
    rw [State.complete, hresults]; rfl
  obtain ⟨hl, hm⟩ | ⟨hl, hm⟩ := microstep_cases s <;>
    obtain ⟨hl', hm'⟩ | ⟨hl', hm'⟩ := microstep_cases (s.withOperands a' b') <;>
    rw [hm, hm', datapath_withOperands b' h]
  · exact hcomplete
  · exact absurd hl hl'
  · exact absurd hl' hl
  · rfl

/-- The load of an acceptance does not read an ignored operand (R101, R143, R195). -/
theorem accepted_withOperands {i : Instr} (h : IgnoresChange i.a a' i.op) (s : State) :
    s.accepted (Instr.make i.op a' b') = (s.accepted i).withOperands a' b' := by
  cases i with
  | clz a b | rsqrt a b => obtain rfl : a' = a := h; rfl
  | op5 | op6 | op7 => rfl
  | divmod | mul32 | mulw => exact h.elim

/-- Two requests in flight that differ in ignored operands stay so up to the completion, under a polite host. -/
theorem runSteps_withOperands {k : Nat} {u : State} (h : IgnoresChange s.a a' (Op.ofCode s.op)) (hb : s.busy = true)
    (hk : s.cnt.toNat + k ≤ lat (Op.ofCode s.op)) (hu : s.undisturbed k = true) (hrun : runSteps k s = .next u) :
    runSteps k (s.withOperands a' b') = .next (u.withOperands a' b') := by
  induction k generalizing s with
  | zero => obtain rfl : s = u := Host.Outcome.next.inj hrun; rfl
  | succ k ih =>
    rw [undisturbed_succ, Bool.and_eq_true] at hu
    obtain ⟨hpolite, hrest⟩ := hu
    obtain ⟨hl, hcnt⟩ := microstep_latch s.takeInputs
    have hcnt' : (s.cnt + 1).toNat = s.cnt.toNat + 1 := cnt_succ_toNat (by omega)
    have hstep : step (s.withOperands a' b') = .next (s.takeInputs.microstep.withOperands a' b') :=
      (step_busy_of_polite (s := s.withOperands a' b') hb hpolite).trans
        (congrArg _ (microstep_withOperands (s := s.takeInputs) b' h))
    rw [runSteps_succ_of_step (step_busy_of_polite hb hpolite)] at hrun
    rw [runSteps_succ_of_step hstep]
    cases k with
    | zero => obtain rfl : s.takeInputs.microstep = u := Host.Outcome.next.inj hrun; rfl
    | succ k =>
      refine ih ?_ (microstep_busy hb ?_) ?_ ((undisturbed_congr hl.inputs _).trans hrest) hrun
      · rw [hl.op, hl.a]; exact h
      · rw [State.takeInputs_cnt, State.takeInputs_op, hcnt']; omega
      · rw [hl.op, hcnt, State.takeInputs_cnt, State.takeInputs_op, hcnt']; omega

/-- A request and one with other ignored operands, accepted in the same state, complete alike (R74). -/
theorem completes_alike (hidle : s.busy = false) {i : Instr} (h : IgnoresChange i.a a' i.op)
    (hu : s.undisturbed (lat i.op) = true) :
    ∃ t t' u u', exec i s = .next t ∧ exec (Instr.make i.op a' b') s = .next t' ∧
      runSteps (lat i.op) t = .next u ∧ runSteps (lat i.op) t' = .next u' ∧
      { u' with a := u.a, b := u.b } = u ∧ u.done = true := by
  obtain ⟨t, u, hexec, hrun, hc⟩ := (acceptedAndCompletes_of_idle hidle i).run hu
  obtain rfl : s.accepted i = t := Host.Outcome.next.inj ((exec_idle hidle i).symm.trans hexec)
  obtain ⟨hf, hop, ha, -, hcnt, -, hinputs, -⟩ := accepted_spec i s
  have hrun' := runSteps_withOperands (s := s.accepted i) b' (by rw [hop, ofCode_code, ha]; exact h) hf.busy
    (by rw [hop, ofCode_code, hcnt]; exact (Nat.zero_add _).le) ((undisturbed_congr hinputs _).trans hu) hrun
  exact ⟨_, _, u, _, hexec, (exec_idle hidle _).trans (congrArg _ (accepted_withOperands b' h s)), hrun, hrun', rfl, hc.done⟩

/-- Settles O57: in each pair the second request is the first with other ignored operands. -/
theorem ignoredOperandsHaveNoEffect : Obligations.IgnoredOperandsHaveNoEffect := by
  intro s a b a' b' hidle p hp hu
  simp only [List.mem_cons, List.not_mem_nil, or_false] at hp
  obtain rfl | rfl | rfl | rfl | rfl := hp
  · exact completes_alike (a' := a) b' hidle rfl hu
  · exact completes_alike (a' := a) b' hidle rfl hu
  · exact completes_alike (a' := a') b' hidle trivial hu
  · exact completes_alike (a' := a') b' hidle trivial hu
  · exact completes_alike (a' := a') b' hidle trivial hu

end Sys2Proof.Machine
end

section
/-!
PROOFS. 30_encoding.md R78 and R79: the host statements, turn by turn, over the micro-steps of the unit (log 11), and the macros.
-/
namespace Sys2Proof.Machine

variable {s u : State} {k fuel : Nat} {rest : List HostStmt}

/-! ### A busy unit's micro-steps in a row -/

/-- `k` micro-steps of a unit that is busy before each of them lead from the first state to the second. -/
inductive BusyRun : Nat → State → State → Prop
  | refl (s : State) : BusyRun 0 s s
  | step {k : Nat} {s u : State} (hb : s.busy = true) (h : BusyRun k s.microstep u) : BusyRun (k + 1) s u

theorem BusyRun.keeps {P : State → Prop} (micro : ∀ t : State, t.busy = true → P t → P t.microstep)
    (h : BusyRun k s u) (hs : P s) : P u := by
  induction h with
  | refl s => exact hs
  | step hb _ ih => exact ih (micro _ hb hs)

theorem BusyRun.latch (h : BusyRun k s u) : SameLatch s u := by
  refine h.keeps (P := SameLatch s) (fun t _ ht => ?_) ⟨rfl, rfl, rfl, rfl, rfl, rfl, rfl, rfl⟩
  obtain ⟨hl, -⟩ := microstep_latch t
  exact ⟨hl.op.trans ht.op, hl.a.trans ht.a, hl.b.trans ht.b, hl.zdiv.trans ht.zdiv, hl.table.trans ht.table,
    hl.inputs.trans ht.inputs, hl.observed.trans ht.observed, hl.freeCount.trans ht.freeCount⟩

/-- A request with `k + 1` micro-steps to go makes them and is done (R196, R197, R199). -/
theorem exists_busyRun (h : ProtocolInv s) (hb : s.busy = true) (hk : s.cnt.toNat + (k + 1) = lat (Op.ofCode s.op)) :
    ∃ u, BusyRun (k + 1) s u ∧ u.done = true := by
  obtain ⟨hlt, -⟩ := h.inFlight hb
  have hsucc := cnt_succ_toNat hlt
  induction k generalizing s with
  | zero => exact ⟨_, .step hb (.refl _), microstep_done (hsucc.trans hk)⟩
  | succ k ih =>
    obtain ⟨hl, hcnt⟩ := microstep_latch s
    have hb' := microstep_busy hb (by omega)
    have h' := microstep_protocolInv hb h
    obtain ⟨hlt', -⟩ := h'.inFlight hb'
    obtain ⟨u, hrun, hdone⟩ := ih h' hb' (by rw [hl.op, hcnt]; omega) hlt' (cnt_succ_toNat hlt')
    exact ⟨u, .step hb hrun, hdone⟩

/-! ### One turn of the host (R78, log 11) -/

/-- A step whose host reads nothing is the unit's event. -/
theorem step_present {h : HostStep} (hreads : h.reads = []) (s : State) : step (s.present h) = .next (s.unitEvent h) := by
  have htake : (s.present h).takeInputs = s := by
    simp [State.takeInputs, State.present, State.ports, State.readValues, hreads]
  have hnone : (s.present h).noValueRead (s.present h).ports.reads = none := congrArg _ hreads
  rw [step_eq_unitEvent hnone, htake]
  rfl

@[simp] theorem runHost_nil (fuel : Nat) (s : State) : runHost fuel [] s = .finished s := by cases fuel <;> rfl

/-- `issue` and `wait` wait while the unit is busy; a read does not (R78). -/
def HostStmt.WaitsWhileBusy : HostStmt → Prop
  | .issue _ | .wait => True
  | .read _ => False

theorem runHost_busy {c : HostStmt} (hc : c.WaitsWhileBusy) (hb : s.busy = true) :
    runHost (fuel + 1) (c :: rest) s = runHost fuel (c :: rest) s.microstep := by
  cases c with
  | issue i => rw [runHost, step_present rfl]; simp [State.unitEvent, HostStep.offer, hb]
  | wait => rw [runHost, step_present rfl]; simp [State.unitEvent, HostStep.quiet, hb]
  | read r => exact hc.elim

theorem runHost_busyRun {c : HostStmt} (hc : c.WaitsWhileBusy) (h : BusyRun k s u) :
    runHost (fuel + k) (c :: rest) s = runHost fuel (c :: rest) u := by
  induction h with
  | refl s => rfl
  | step hb _ ih => rw [← Nat.add_assoc, runHost_busy hc hb, ih]

/-- An idle unit accepts the request that `issue` offers (R78, R195). -/
theorem runHost_issue_idle (hidle : s.busy = false) (i : Instr) :
    runHost (fuel + 1) (.issue i :: rest) s = runHost fuel rest (s.accepted i) := by
  have hword : decode (Request.ofInstr i).word = i := decode_encode i
  rw [runHost, step_present rfl]
  simp [State.unitEvent, HostStep.offer, hidle, hword]

theorem runHost_wait_idle (hidle : s.busy = false) : runHost (fuel + 1) (.wait :: rest) s = runHost fuel rest s := by
  rw [runHost, hidle]
  rfl

/-- Reads of registers that hold values give the host these values, in order (R200). -/
theorem runHost_reads (vs : List (HostReg × Word)) (s : State) (h : ∀ p ∈ vs, s.readReg p.1 = some p.2) :
    runHost (fuel + vs.length) (vs.map fun p => .read p.1) s = .finished (s.withObserved (s.observed ++ vs)) := by
  induction vs generalizing s with
  | nil => simp [State.withObserved]
  | cons p vs ih =>
    have hp := h p (List.mem_cons_self ..)
    have hvs : ∀ q ∈ vs, (s.withObserved (s.observed ++ [p])).readReg q.1 = some q.2 := fun q hq =>
      h q (List.mem_cons_of_mem _ hq)
    rw [List.length_cons, ← Nat.add_assoc, List.map_cons, runHost, hp]
    refine (ih (s.withObserved (s.observed ++ [p])) hvs).trans ?_
    simp [State.withObserved]

/-! ### Waiting for a request -/

/-- Settles O58: at most 32 micro-steps free the unit, and the turn after them accepts. -/
theorem issueWaitsAndIsAccepted : Obligations.IssueWaitsAndIsAccepted := by
  intro i s h
  have haccept : ∀ (t : State) (fuel : Nat), t.busy = false → runHost (fuel + 1) [.issue i] t = .finished (t.accepted i) :=
    fun t fuel hidle => by rw [runHost_issue_idle hidle, runHost_nil]
  have hspec : ∀ t : State, InFlight (t.accepted i) ∧ (t.accepted i).op = i.op.code ∧ (t.accepted i).a = i.a ∧
      (t.accepted i).b = i.b ∧ (t.accepted i).cnt = 0 := fun t => by
    obtain ⟨hf, hop, ha, hb, hcnt, -⟩ := accepted_spec i t
    exact ⟨hf, hop, ha, hb, hcnt⟩
  cases hb : s.busy with
  | false => exact ⟨_, haccept s 32 hb, hspec s⟩
  | true =>
    obtain ⟨hlt, -⟩ := h.inFlight hb
    obtain ⟨k, hk⟩ := Nat.exists_eq_add_of_lt hlt
    have hle := lat_le (Op.ofCode s.op)
    obtain ⟨u, hrun, hdone⟩ := exists_busyRun (k := k) h hb (by omega)
    obtain ⟨hidle, -⟩ := (hrun.keeps (P := ProtocolInv) (fun _ => microstep_protocolInv) h).doneHolds hdone
    have hturns : 33 = (31 - k + 1) + (k + 1) := by omega
    exact ⟨_, by rw [hturns, runHost_busyRun (c := .issue i) trivial hrun, haccept u _ hidle], hspec u⟩

/-- `issue` and `wait` on an idle unit leave the request completed with its results, after LAT + 2 turns (R78, R199). -/
theorem runHost_issue_wait (hidle : s.busy = false) (i : Instr) :
    ∃ u, Completed (requestResult s.table i.op i.a i.b).1 (requestResult s.table i.op i.a i.b).2 i.op.reserved u ∧
      u.observed = s.observed ∧ u.inputs = s.inputs ∧
      ∀ fuel rest, runHost (fuel + 1 + lat i.op + 1) (.issue i :: .wait :: rest) s = runHost fuel rest u := by
  obtain ⟨hf, hop, ha, hb, hcnt, htable, hinputs, hobserved, -⟩ := accepted_spec i s
  obtain ⟨k, hk⟩ := Nat.exists_eq_add_one_of_ne_zero (lat_pos i.op).ne'
  obtain ⟨u, hrun, hdone⟩ := exists_busyRun (k := k) (accepted_protocolInv i s) hf.busy (by
    rw [hop, ofCode_code, hcnt, hk]; exact Nat.zero_add _)
  have hl := hrun.latch
  have hc := (hrun.keeps (P := DatapathInv) (fun _ => microstep_datapathInv) (accepted_datapathInv i s)).completed hdone
  rw [hl.table, hl.op, hl.a, hl.b, htable, hop, ofCode_code, ha, hb] at hc
  refine ⟨u, hc, hl.observed.trans hobserved, hl.inputs.trans hinputs, fun fuel rest => ?_⟩
  rw [runHost_issue_idle hidle, hk, runHost_busyRun (c := .wait) trivial hrun, runHost_wait_idle hc.busy]

/-! ### The macros (R79) -/

/-- A request issued to an idle unit, waited for, and some of its results read into host variables (R79). -/
theorem runHost_issue_wait_reads (hidle : s.busy = false) (i : Instr) {x0 x1 : Word}
    (hresult : requestResult s.table i.op i.a i.b = (x0, x1)) {vs : List (HostReg × Word)}
    (hvs : vs.Sublist [(.r0, x0), (.r1, x1)]) :
    ∃ t, runHost 40 (.issue i :: .wait :: vs.map fun p => .read p.1) s = .finished t ∧
      t.observed = s.observed ++ vs ∧ t.busy = false ∧ t.inputs = s.inputs := by
  obtain ⟨u, hc, hobserved, hinputs, hrun⟩ := runHost_issue_wait hidle i
  rw [hresult] at hc
  have hturns : 40 = (38 - lat i.op - vs.length + vs.length) + 1 + lat i.op + 1 := by
    have hlat := lat_le i.op
    have hlen : vs.length ≤ 2 := hvs.length_le
    omega
  have hreads : ∀ p ∈ vs, u.readReg p.1 = some p.2 := fun p hp => by
    obtain rfl | rfl : p = (.r0, x0) ∨ p = (.r1, x1) := by simpa using hvs.subset hp
    · exact hc.r0
    · exact hc.r1
  refine ⟨u.withObserved (u.observed ++ vs), ?_, congrArg (· ++ vs) hobserved, hc.busy, hinputs⟩
  rw [hturns, hrun, runHost_reads vs u hreads]

theorem lowWord_eq_ofNat (p : DWord) : lowWord p = BitVec.ofNat 32 p.toNat := rfl

theorem highWord_eq_ofNat (p : DWord) : highWord p = BitVec.ofNat 32 (p.toNat / 2 ^ 32) := by
  rw [← Nat.shiftRight_eq_div_pow]
  rfl

/-- The widening product does not wrap (R124). -/
theorem wmul_toNat (a b : Word) : (wmul a b).toNat = a.toNat * b.toNat := by
  have hlt : a.toNat * b.toNat < 2 ^ 32 * 2 ^ 32 := Nat.mul_lt_mul'' a.isLt b.isLt
  rw [wmul, BitVec.toNat_mul, BitVec.toNat_setWidth_of_le (by omega), BitVec.toNat_setWidth_of_le (by omega),
    Nat.mod_eq_of_lt (by omega)]

theorem requestResult_divmod (tbl : Config.Table) (a b : Word) :
    requestResult tbl .divmod a b =
      (if b = 0 then 0 else BitVec.ofNat 32 (a.toNat / b.toNat), if b = 0 then 0 else BitVec.ofNat 32 (a.toNat % b.toNat)) := by
  rw [requestResult, divmod32]
  split <;> rfl

theorem requestResult_mulw (tbl : Config.Table) (a b : Word) :
    requestResult tbl .mulw a b =
      (BitVec.ofNat 32 (a.toNat * b.toNat), BitVec.ofNat 32 (a.toNat * b.toNat / 2 ^ 32)) := by
  rw [requestResult, lowWord_eq_ofNat, highWord_eq_ofNat, wmul_toNat]

/-- Settles O59: each expansion issues one request, waits for it and reads its results. -/
theorem macrosReturnTheResults : Obligations.MacrosReturnTheResults := by
  intro s a b hidle
  have hdiv := requestResult_divmod s.table a b
  have hmulw := requestResult_mulw s.table a b
  refine ⟨?_, ?_, ?_, ?_, ?_, ?_, ?_, fun i => ?_⟩
  · exact runHost_issue_wait_reads hidle (.divmod a b) hdiv (.cons_cons _ (.cons _ .slnil))
  · exact runHost_issue_wait_reads hidle (.divmod a b) hdiv (.cons _ (.refl _))
  · exact runHost_issue_wait_reads hidle (.mul32 a b) rfl (.cons_cons _ (.cons _ .slnil))
  · exact runHost_issue_wait_reads hidle (.mulw a b) hmulw (.refl _)
  · exact runHost_issue_wait_reads hidle (.mulw a b) hmulw (.cons _ (.refl _))
  · exact runHost_issue_wait_reads hidle (.clz a 0) rfl (.cons_cons _ (.cons _ .slnil))
  · exact runHost_issue_wait_reads hidle (.rsqrt a 0) rfl (.cons_cons _ (.cons _ .slnil))
  · obtain ⟨u, hc, -, -, hrun⟩ := runHost_issue_wait hidle i
    have hle := lat_le i.op
    have hturns : 40 = (38 - lat i.op) + 1 + lat i.op + 1 := by omega
    exact ⟨u, by rw [hturns, Macro.expand, hrun, runHost_nil], hc⟩

end Sys2Proof.Machine
end

section
/-!
PROOFS. 40_clz.md: the function of R100, CLZ's datapath (R102, R103), and a CLZ request from its acceptance to its result (R101,
R104).
-/
namespace Sys2Proof.Machine

variable {s : State} {x : Word}

/-! ### The function -/

/-- The index of the highest set bit of a word that is not 0 (R100). -/
theorem sub_clz32 (hx : x ≠ 0) : 31 - clz32 x = x.toNat.log2 := by
  have hlog : x.toNat.log2 < 32 := (Nat.log2_lt (BitVec.toNat_ne.1 hx)).2 x.isLt
  rw [clz32, if_neg hx]
  omega

/-- Settles O26: the highest set bit is at the binary logarithm, which bounds the word by two powers of 2. -/
theorem clz32CountsLeadingZeros : Obligations.Clz32CountsLeadingZeros := by
  intro x
  by_cases hx : x = 0
  · have hzero : clz32 x = 32 := if_pos hx
    exact ⟨hzero.le, fun _ => hzero, fun h => absurd hx h⟩
  · have hle := clz32_le x hx
    have hne : x.toNat ≠ 0 := BitVec.toNat_ne.1 hx
    have hsucc : 32 - clz32 x = x.toNat.log2 + 1 := by rw [← sub_clz32 hx]; omega
    have hlt : x.toNat < 2 ^ (x.toNat.log2 + 1) := Nat.lt_log2_self
    refine ⟨hle.trans (by omega), fun h => absurd h hx, fun _ => ⟨hle, ?_⟩⟩
    rw [hsucc, sub_clz32 hx]
    refine ⟨Nat.testBit_log2 hne, fun j hj => ?_, Nat.log2_self_le hne, hlt⟩
    exact Nat.testBit_eq_false_of_lt (hlt.trans_le (Nat.pow_le_pow_right Nat.two_pos hj))

/-! ### The datapath -/

/-- The window ends at the highest set bit alone, or empty for 0 (R102). -/
theorem window_of_progress (h : ClzProgress x 5 s) : s.v = if x = 0 then 0 else 1 := by
  by_cases hx : x = 0
  · rw [if_pos hx]; exact h.zeroIff.2 hx
  · rw [if_neg hx]; exact (clzCount_of_progress h).2 hx

/-- The six-bit `S.n` enters the count as the number it holds (R101). -/
theorem clzCount_eq_ofNat_sub (s : State) : s.clzCount = BitVec.ofNat 32 s.n.toNat - s.v := by
  rw [State.clzCount, BitVec.ofNat_toNat]

/-- Settles O27: five micro-steps from the load of an acceptance make the whole progress. -/
theorem clzDatapathCounts : Obligations.ClzDatapathCounts := by
  intro s
  have h : ClzProgress s.a 5 (s.clzLoad.clzRun 5) := clzRun_progress s (le_refl 5)
  refine ⟨?_, window_of_progress h⟩
  rw [← clzCount_eq_ofNat_sub]
  exact (clzCount_of_progress h).1

/-! ### The micro-steps of a request -/

/-- The micro-step that completes CLZ in flight is number 4 (R199). -/
theorem clz_cnt_succ_eq_lat_iff (h : Op.ofCode s.op = .clz) : (s.cnt + 1).toNat = lat (Op.ofCode s.op) ↔ s.cnt = 4 := by
  rw [h, lat]
  bv_omega

/-- CLZ's completion rule (R101, R197). -/
theorem complete_clz (h : Op.ofCode s.op = .clz) :
    s.complete = { s with r0 := some s.clzCount, r1 := some 0, busy := false, done := true, illop := false } := by
  rw [State.complete, results_clz h, h]
  rfl

/-- A micro-step of CLZ in flight: the datapath and the count, and at number 4 the completion (R101, R102). -/
theorem microstep_clz (h : Op.ofCode s.op = .clz) :
    s.microstep =
      let t := s.clzStep s.cnt.toNat
      if s.cnt = 4 then
        { t with cnt := 5, r0 := some t.clzCount, r1 := some 0, busy := false, done := true, illop := false }
      else { t with cnt := s.cnt + 1 } := by
  have hc := clzStep_control s.cnt.toNat s
  have hop : Op.ofCode (s.clzStep s.cnt.toNat).countStep.op = .clz := by rw [State.countStep_op, hc.op, h]
  obtain ⟨hlat, hm⟩ | ⟨hlat, hm⟩ := microstep_cases s <;> rw [hm, datapath_clz h]
  · have hcnt : s.cnt = 4 := (clz_cnt_succ_eq_lat_iff h).1 hlat
    rw [complete_clz hop, State.countStep, hc.cnt, hcnt]
    rfl
  · rw [State.countStep, hc.cnt]
    exact (if_neg (mt (clz_cnt_succ_eq_lat_iff h).2 hlat)).symm

/-- Settles O19: the micro-step of the latch, its datapath written out. -/
theorem clzMicrosteps : Obligations.ClzMicrosteps := by
  intro i s hb hop _
  rw [exec_busy hb, microstep_clz (by rw [hop]; rfl)]
  simp only [clzCount_eq_ofNat_sub]
  rfl

/-- Settles O28: an idle unit completes CLZ after LAT = 5 micro-steps, with its pure result. -/
theorem clzResult : Obligations.ClzResult := by
  intro s a b hb
  exact acceptedAndCompletes_of_idle hb (.clz a b)

end Sys2Proof.Machine
end

section
/-!
PROOFS. 41_divmod.md: DIVMOD's micro-steps and completion rule (R111, R112), what its datapath divides (R113, R114), and a DIVMOD
request from its acceptance to its result (R110, R115, R116).
-/
namespace Sys2Proof.Machine

variable {s : State} {k : Nat}

/-! ### The datapath -/

/-- DIVMOD's datapath after its first `k` micro-steps. -/
def State.divRun (s : State) (k : Nat) : State := (List.range k).foldl (fun u j => u.divStep j) s

@[simp] theorem State.divRun_zero (s : State) : s.divRun 0 = s := rfl

theorem State.divRun_succ (s : State) (k : Nat) : s.divRun (k + 1) = (s.divRun k).divStep k := by
  simp [State.divRun, List.range_succ]

/-- The micro-steps keep the latched operands (R28, R112). -/
theorem divRun_operands (s : State) (k : Nat) : (s.divRun k).a = s.a ∧ (s.divRun k).b = s.b := by
  induction k with
  | zero => exact ⟨rfl, rfl⟩
  | succ k ih =>
    obtain ⟨ha, hb⟩ := ih
    have hc := divStep_control k (s.divRun k)
    rw [State.divRun_succ]
    exact ⟨hc.a.trans ha, hc.b.trans hb⟩

theorem divRun_progress (s : State) (hk : k ≤ 32) : DivProgress k (s.divLoad.divRun k) := by
  induction k with
  | zero => exact divLoad_progress s
  | succ k ih => rw [State.divRun_succ]; exact divStep_progress hk (ih (by omega))

/-- The remainder stays below a divisor that is not 0 (R113). -/
theorem DivProgress.rem_lt (h : DivProgress k s) (hb : s.b ≠ 0) : s.rem.toNat < s.b.toNat := by
  rw [h.remainder hb]
  exact Nat.mod_lt _ (Nat.pos_of_ne_zero (BitVec.toNat_ne.1 hb))

/-- The shifted remainder of the next micro-step (R113). -/
theorem DivProgress.shifted_lt (h : DivProgress k s) (d : Bool) :
    2 * s.rem.toNat + (if d then 1 else 0) < 2 ^ (k + 1) := by
  have hlt := h.remLt
  rw [pow_succ]
  split <;> omega

/-- What the 32 micro-steps leave for a zero divisor, and the completion rule discards (R114). -/
theorem DivProgress.of_zero_divisor (h : DivProgress 32 s) (hb : s.b = 0) : s.quo = 0xFFFFFFFF ∧ s.rem = s.a := by
  have hq := h.zeroQuo hb
  have hr := h.zeroRem hb
  rw [Nat.sub_self, pow_zero] at hq hr
  exact ⟨BitVec.eq_of_toNat_eq hq, BitVec.eq_of_toNat_eq (hr.trans (Nat.div_one _))⟩

/-- Settles O29: the micro-steps from the load of an acceptance make the divider's progress. -/
theorem divmodDatapathDivides : Obligations.DivmodDatapathDivides := by
  intro s k hk t
  have hrun : t = s.divLoad.divRun k := rfl
  have h : DivProgress k t := hrun ▸ divRun_progress s hk
  obtain ⟨ha, hb⟩ : t.a = s.a ∧ t.b = s.b := hrun ▸ divRun_operands s.divLoad k
  rw [← ha, ← hb]
  refine ⟨h.remLt, fun h0 => ⟨h.rem_lt h0, h.remainder h0, h.quotient h0⟩, ?_, fun _ => h.shifted_lt _, ?_⟩
  · rintro h0 rfl
    exact h.of_zero_divisor h0
  · rintro rfl
    exact divResults_of_progress h

/-! ### The micro-steps of a request -/

/-- The micro-step that completes DIVMOD in flight is number 31 (R199). -/
theorem divmod_cnt_succ_eq_lat_iff (h : Op.ofCode s.op = .divmod) :
    (s.cnt + 1).toNat = lat (Op.ofCode s.op) ↔ s.cnt.toNat = 31 := by
  rw [h, lat]
  bv_omega

/-- DIVMOD's completion rule (R111, R197). -/
theorem complete_divmod (h : Op.ofCode s.op = .divmod) :
    s.complete = { s with
      r0 := some (if s.zdiv then 0 else s.quo), r1 := some (if s.zdiv then 0 else s.rem)
      busy := false, done := true, illop := false } := by
  rw [State.complete, results_divmod h, h, State.divResults, apply_ite Prod.fst, apply_ite Prod.snd]
  rfl

/-- A micro-step of DIVMOD in flight: the datapath and the count, and at number 31 the completion (R111, R112). -/
theorem microstep_divmod (h : Op.ofCode s.op = .divmod) :
    s.microstep =
      let t := s.divStep s.cnt.toNat
      if s.cnt.toNat = 31 then
        { t with
          cnt := 32, r0 := some (if s.zdiv then 0 else t.quo), r1 := some (if s.zdiv then 0 else t.rem)
          busy := false, done := true, illop := false }
      else { t with cnt := s.cnt + 1 } := by
  have hc := divStep_control s.cnt.toNat s
  have hop : Op.ofCode (s.divStep s.cnt.toNat).countStep.op = .divmod := by rw [State.countStep_op, hc.op, h]
  obtain ⟨hlat, hm⟩ | ⟨hlat, hm⟩ := microstep_cases s <;> rw [hm, datapath_divmod h]
  · have hlast := (divmod_cnt_succ_eq_lat_iff h).1 hlat
    have hcnt : s.cnt + 1 = 32 := BitVec.eq_of_toNat_eq (by rw [hlat, h]; rfl)
    rw [complete_divmod hop, State.countStep, hc.cnt, hcnt, ← hc.zdiv]
    exact (if_pos hlast).symm
  · rw [State.countStep, hc.cnt]
    exact (if_neg (mt (divmod_cnt_succ_eq_lat_iff h).2 hlat)).symm

theorem one_shiftLeft_eq_ofNat (j : Nat) : 1#32 <<< j = BitVec.ofNat 32 (2 ^ j) := by
  apply BitVec.eq_of_toNat_eq
  simp [Nat.shiftLeft_eq]

/-- The micro-step in unbounded arithmetic (R112). -/
theorem divStep_eq_ofNat (k : Nat) (s : State) :
    s.divStep k =
      let r := 2 * s.rem.toNat + (if s.a.getLsbD (31 - k) then 1 else 0)
      if s.b.toNat ≤ r then
        { s with rem := BitVec.ofNat 32 (r - s.b.toNat), quo := s.quo ||| BitVec.ofNat 32 (2 ^ (31 - k)) }
      else { s with rem := BitVec.ofNat 32 r } := by
  have hr : (s.divShifted k).toNat = 2 * s.rem.toNat + (if s.a.getLsbD (31 - k) then 1 else 0) := by
    rw [divShifted_toNat, State.dividendBit, Bool.toNat, Bool.cond_eq_ite]
  rw [← hr, ← one_shiftLeft_eq_ofNat]
  obtain ⟨hle, h⟩ | ⟨hlt, h⟩ := divStep_cases k s
  · exact h.trans (if_pos hle).symm
  · exact h.trans (if_neg (not_le.2 hlt)).symm

/-- Settles O20: the micro-step of the latch, its datapath in unbounded arithmetic. -/
theorem divmodMicrosteps : Obligations.DivmodMicrosteps := by
  intro i s hb hop _
  rw [exec_busy hb, microstep_divmod (by rw [hop]; rfl), divStep_eq_ofNat]

/-! ### A request -/

/-- Settles O30: an idle unit completes DIVMOD after LAT = 32 micro-steps, with its pure result. -/
theorem divmodResult : Obligations.DivmodResult := by
  intro s a b hidle
  have h : AcceptedAndCompletes s (.divmod a b) 32 (divmod32 a b).1 (divmod32 a b).2 false :=
    acceptedAndCompletes_of_idle hidle (.divmod a b)
  constructor
  · intro hb
    rwa [divmod32, if_pos hb] at h
  · intro hb
    rw [divmod32, if_neg hb] at h
    have hq : (BitVec.ofNat 32 (a.toNat / b.toNat)).toNat = a.toNat / b.toNat :=
      Nat.mod_eq_of_lt ((Nat.div_le_self _ _).trans_lt a.isLt)
    have hr : (BitVec.ofNat 32 (a.toNat % b.toNat)).toNat = a.toNat % b.toNat :=
      Nat.mod_eq_of_lt ((Nat.mod_le _ _).trans_lt a.isLt)
    refine ⟨_, _, hq, ?_, ?_, h⟩
    · rw [hq, hr, Nat.mod_eq_sub_div_mul]
    · rw [hr]
      exact Nat.mod_lt _ (Nat.pos_of_ne_zero (BitVec.toNat_ne.1 hb))

end Sys2Proof.Machine
end

section
/-!
PROOFS. 42_multiply.md: the widening product (R124, R127), MUL32's datapath and micro-steps (R120 to R122), MULW's one micro-step
(R123), and both requests from their acceptance to their results (R126).
-/
namespace Sys2Proof.Machine

variable {s : State} {k : Nat}

/-! ### The widening product -/

theorem lowWord_toNat (p : DWord) : (lowWord p).toNat = p.toNat % 2 ^ 32 := by
  rw [lowWord_eq_ofNat, BitVec.toNat_ofNat]

theorem highWord_toNat (p : DWord) : (highWord p).toNat = p.toNat / 2 ^ 32 := by
  have hlt : p.toNat < 2 ^ 32 * 2 ^ 32 := p.isLt
  rw [highWord_eq_ofNat, BitVec.toNat_ofNat, Nat.mod_eq_of_lt (Nat.div_lt_of_lt_mul hlt)]

/-- The two halves of a product make it up, with no truncation (R124). -/
theorem lowWord_add_highWord (p : DWord) : (lowWord p).toNat + (highWord p).toNat * 2 ^ 32 = p.toNat := by
  rw [lowWord_toNat, highWord_toNat, Nat.mod_add_div']

/-- The product modulo 2^32 is the low word of the widening product (R122, R127). -/
theorem lowWord_wmul (a b : Word) : lowWord (wmul a b) = a * b := by
  apply BitVec.eq_of_toNat_eq
  rw [lowWord_toNat, wmul_toNat, BitVec.toNat_mul]

/-- Settles O33: the product does not wrap, and its halves lose nothing. -/
theorem wideningProductIsExact : Obligations.WideningProductIsExact := by
  intro a b
  rw [lowWord_add_highWord, lowWord_toNat, highWord_toNat, wmul_toNat]
  exact ⟨rfl, rfl, rfl, rfl⟩

/-- Settles O48: MUL32 multiplies words, which commutes, and the product grows with both operands. -/
theorem mul32IsTheLowWordOfMulw : Obligations.Mul32IsTheLowWordOfMulw := by
  refine ⟨fun _ a b => ⟨(lowWord_wmul a b).symm, BitVec.mul_comm a b, ?_⟩, by decide⟩
  rw [wmul_toNat]
  exact Nat.mul_le_mul (Nat.le_pred_of_lt a.isLt) (Nat.le_pred_of_lt b.isLt)

/-! ### MUL32's datapath -/

/-- MUL32's datapath after its first `k` micro-steps. -/
def State.mulRun (s : State) (k : Nat) : State := (List.range k).foldl (fun u j => u.mulStep j) s

@[simp] theorem State.mulRun_zero (s : State) : s.mulRun 0 = s := rfl

theorem State.mulRun_succ (s : State) (k : Nat) : s.mulRun (k + 1) = (s.mulRun k).mulStep k := by
  simp [State.mulRun, List.range_succ]

/-- The micro-steps keep the latched operands (R28, R121). -/
theorem mulRun_operands (s : State) (k : Nat) : (s.mulRun k).a = s.a ∧ (s.mulRun k).b = s.b := by
  induction k with
  | zero => exact ⟨rfl, rfl⟩
  | succ k ih => rwa [State.mulRun_succ, State.mulStep_a, State.mulStep_b]

theorem mulRun_progress (s : State) (k : Nat) : MulProgress k (s.mulLoad.mulRun k) := by
  induction k with
  | zero => exact mulLoad_progress s
  | succ k ih => rw [State.mulRun_succ]; exact mulStep_progress ih

/-- Settles O31: the micro-steps from the load of an acceptance make the multiplier's progress. -/
theorem mul32DatapathMultiplies : Obligations.Mul32DatapathMultiplies := by
  intro s k _ t
  have hrun : t = s.mulLoad.mulRun (k + 1) := rfl
  have h : MulProgress (k + 1) t := hrun ▸ mulRun_progress s (k + 1)
  obtain ⟨ha, hb⟩ : t.a = s.a ∧ t.b = s.b := hrun ▸ mulRun_operands s.mulLoad (k + 1)
  rw [← ha, ← hb]
  refine ⟨h.multiplicand, h.product, ?_⟩
  rintro rfl
  have hacc : t.acc = t.a * t.b := congrArg Prod.fst (mulResults_of_progress h)
  rw [lowWord_wmul, ← BitVec.toNat_mul]
  exact ⟨congrArg BitVec.toNat hacc, hacc⟩

/-! ### The micro-steps of a MUL32 request -/

/-- The micro-step that completes MUL32 in flight is number 31 (R199). -/
theorem mul32_cnt_succ_eq_lat_iff (h : Op.ofCode s.op = .mul32) :
    (s.cnt + 1).toNat = lat (Op.ofCode s.op) ↔ s.cnt = 31 := by
  rw [h, lat]
  bv_omega

/-- MUL32's completion rule (R120, R197). -/
theorem complete_mul32 (h : Op.ofCode s.op = .mul32) :
    s.complete = { s with r0 := some s.acc, r1 := some 0, busy := false, done := true, illop := false } := by
  rw [State.complete, results_mul32 h, h]
  rfl

/-- A micro-step of MUL32 in flight: the datapath and the count, and at number 31 the completion (R120, R121). -/
theorem microstep_mul32 (h : Op.ofCode s.op = .mul32) :
    s.microstep =
      let t := s.mulStep s.cnt.toNat
      if s.cnt = 31 then
        { t with cnt := 32, r0 := some t.acc, r1 := some 0, busy := false, done := true, illop := false }
      else { t with cnt := s.cnt + 1 } := by
  have hop : Op.ofCode (s.mulStep s.cnt.toNat).countStep.op = .mul32 := h
  obtain ⟨hlat, hm⟩ | ⟨hlat, hm⟩ := microstep_cases s <;> rw [hm, datapath_mul32 h]
  · have hcnt : s.cnt = 31 := (mul32_cnt_succ_eq_lat_iff h).1 hlat
    rw [complete_mul32 hop, State.countStep, State.mulStep_cnt, hcnt]
    rfl
  · exact (if_neg (mt (mul32_cnt_succ_eq_lat_iff h).2 hlat)).symm

/-- The micro-step in unbounded arithmetic (R121). -/
theorem mulStep_eq_ofNat (k : Nat) (s : State) :
    s.mulStep k = { s with
      acc := BitVec.ofNat 32 (s.acc.toNat + (if s.b.getLsbD k then s.ma.toNat else 0))
      ma := BitVec.ofNat 32 (2 * s.ma.toNat) } := by
  have hma : s.ma <<< 1 = BitVec.ofNat 32 (2 * s.ma.toNat) := by bv_omega
  have hacc : (if s.multiplierBit k then s.acc + s.ma else s.acc) =
      BitVec.ofNat 32 (s.acc.toNat + (if s.b.getLsbD k then s.ma.toNat else 0)) := by
    rw [State.multiplierBit]
    split
    · rfl
    · rw [Nat.add_zero, BitVec.ofNat_toNat, BitVec.setWidth_eq]
  rw [State.mulStep, hma, hacc]

/-- Settles O21: the micro-step of the latch, its datapath in unbounded arithmetic. -/
theorem mul32Microsteps : Obligations.Mul32Microsteps := by
  intro i s hb hop _
  rw [exec_busy hb, microstep_mul32 (by rw [hop]; rfl), mulStep_eq_ofNat]

/-- Settles O32: an idle unit completes MUL32 after LAT = 32 micro-steps, with its pure result. -/
theorem mul32Result : Obligations.Mul32Result := by
  intro s a b hidle
  exact acceptedAndCompletes_of_idle hidle (.mul32 a b)

/-! ### A MULW request -/

/-- The one micro-step of MULW in flight completes it with the two halves of the product (R123, R197, R199). -/
theorem microstep_mulw (h : Op.ofCode s.op = .mulw) (hcnt : s.cnt = 0) :
    s.microstep = { s with
      cnt := 1, r0 := some (lowWord (wmul s.a s.b)), r1 := some (highWord (wmul s.a s.b))
      busy := false, done := true, illop := false } := by
  have hlat : lat (Op.ofCode s.op) = 1 := by rw [h]; rfl
  have hresults : s.countStep.results = s.mulwResults := results_mulw h
  obtain ⟨-, hm⟩ | ⟨hne, -⟩ := microstep_cases s
  · rw [hm, datapath_single hlat, State.complete, hresults, State.countStep_op, h, State.countStep, hcnt]
    rfl
  · exact absurd (by rw [hlat, hcnt]; rfl) hne

/-- Settles O22: the micro-step of the latch, the halves of its product in unbounded arithmetic. -/
theorem mulwMicrostep : Obligations.MulwMicrostep := by
  intro i s hb hop hcnt
  rw [exec_busy hb, microstep_mulw (by rw [hop]; rfl) hcnt, lowWord_eq_ofNat, highWord_eq_ofNat, wmul_toNat]

/-- Settles O34: an idle unit completes MULW after LAT = 1 micro-step, with the two halves of the product. -/
theorem mulwResult : Obligations.MulwResult := by
  intro s a b hidle
  have hhalves : (lowWord (wmul a b)).toNat + (highWord (wmul a b)).toNat * 2 ^ 32 = a.toNat * b.toNat :=
    (lowWord_add_highWord _).trans (wmul_toNat a b)
  exact ⟨_, _, hhalves, acceptedAndCompletes_of_idle hidle (.mulw a b)⟩

end Sys2Proof.Machine
end

section
/-!
PROOFS. 43_rsqrt.md R144, R150 to R153: the algorithm in unbounded arithmetic over any table, the micro-steps of RSQRT, and a request
from its acceptance to its result.
-/
namespace Sys2Proof.Machine
variable {s : State} {k : Nat} {x : Word}

/-! ### The algorithm in unbounded arithmetic -/

theorem sliceFrom16_eq_ofNat (p : DWord) : sliceFrom16 p = BitVec.ofNat 32 (p.toNat / 2 ^ 16) := by
  rw [← Nat.shiftRight_eq_div_pow]
  rfl

theorem sliceFrom17_eq_ofNat (p : DWord) : sliceFrom17 p = BitVec.ofNat 32 (p.toNat / 2 ^ 17) := by
  rw [← Nat.shiftRight_eq_div_pow]
  rfl

theorem nrSquare_eq_ofNat (y : Word) : nrSquare y = BitVec.ofNat 32 (y.toNat * y.toNat) := by
  rw [nrSquare, lowWord_eq_ofNat, wmul_toNat]

theorem nrScale_eq_ofNat (x y2 : Word) : nrScale x y2 = BitVec.ofNat 32 (x.toNat * y2.toNat / 2 ^ 16) := by
  rw [nrScale, sliceFrom16_eq_ofNat, wmul_toNat]

theorem nrUpdate_eq_ofNat (y xy2 : Word) :
    nrUpdate y xy2 = BitVec.ofNat 32 (y.toNat * (0x30000 - xy2).toNat / 2 ^ 17) := by
  rw [nrUpdate, sliceFrom17_eq_ofNat, wmul_toNat, nrTerm]

theorem powerOfTwo_toNat (e : BitVec 5) : (powerOfTwo e).toNat = 2 ^ e.toNat := by
  rw [powerOfTwo, BitVec.shiftLeft_eq', one_shiftLeft_eq_ofNat, BitVec.toNat_ofNat]
  exact Nat.mod_eq_of_lt (Nat.pow_lt_pow_right (by omega) e.isLt)

theorem powerOfTwo_lt_iff (e : BitVec 5) : powerOfTwo e < x ↔ 2 ^ e.toNat < x.toNat := by
  rw [BitVec.lt_def, powerOfTwo_toNat]

/-- The fraction needs no more than 48 of the 64 bits it is computed in (R147). -/
theorem rsqrtFrac_eq_ofNat (e : BitVec 5) (h : 2 ^ e.toNat ≤ x.toNat) :
    rsqrtFrac x e = BitVec.ofNat 32 ((x.toNat - 2 ^ e.toNat) * 2 ^ 16 / 2 ^ e.toNat) := by
  have hx := x.isLt
  have hsub : (x - powerOfTwo e).toNat = x.toNat - 2 ^ e.toNat := by
    rw [BitVec.toNat_sub_of_le (by rw [BitVec.le_def, powerOfTwo_toNat]; exact h), powerOfTwo_toNat]
  apply BitVec.eq_of_toNat_eq
  rw [rsqrtFrac, BitVec.toNat_setWidth, BitVec.ushiftRight_eq', BitVec.toNat_ushiftRight, BitVec.toNat_shiftLeft,
    BitVec.toNat_setWidth_of_le (by omega), hsub, Nat.shiftLeft_eq, Nat.shiftRight_eq_div_pow, BitVec.toNat_ofNat,
    Nat.mod_eq_of_lt (a := _ * _) (by omega)]

/-- The interpolation (R147) over any table. -/
theorem rsqrtInterp_eq_ofNat (T : Config.Table) (x : Word) (e : BitVec 5) (y : Word) :
    rsqrtInterp T x e y =
      if 2 ^ e.toNat < x.toNat then
        y - BitVec.ofNat 32 ((y - tableNext T e).toNat *
          (BitVec.ofNat 32 ((x.toNat - 2 ^ e.toNat) * 2 ^ 16 / 2 ^ e.toNat)).toNat / 2 ^ 16)
      else y := by
  rw [rsqrtInterp]
  by_cases h : 2 ^ e.toNat < x.toNat
  · rw [if_pos ((powerOfTwo_lt_iff e).2 h), if_pos h, sliceFrom16_eq_ofNat, wmul_toNat, rsqrtFrac_eq_ofNat e h.le]
  · rw [if_neg (mt (powerOfTwo_lt_iff e).1 h), if_neg h]

/-- One iteration (R148). -/
theorem nrIterate_eq_ofNat (x y : Word) :
    nrIterate x y =
      BitVec.ofNat 32 (y.toNat * (0x30000 - BitVec.ofNat 32 (x.toNat * (y.toNat * y.toNat % 2 ^ 32) / 2 ^ 16)).toNat /
        2 ^ 17) := by
  rw [nrIterate, nrUpdate_eq_ofNat, nrScale_eq_ofNat, nrSquare_eq_ofNat, BitVec.toNat_ofNat]

/-- The index of the highest set bit, by the powers of 2 around the word (R144). -/
theorem highestBit_eq {e : Fin 32} (hlow : 2 ^ e.val ≤ x.toNat) (hhigh : x.toNat < 2 ^ (e.val + 1)) :
    highestBit x = BitVec.ofFin e := by
  have hne : x.toNat ≠ 0 := ((Nat.two_pow_pos e.val).trans_le hlow).ne'
  apply BitVec.eq_of_toNat_eq
  rw [highestBit, sub_clz32 (BitVec.toNat_ne.2 hne), (Nat.log2_eq_iff hne).2 ⟨hlow, hhigh⟩, BitVec.toNat_ofNat]
  exact Nat.mod_eq_of_lt e.isLt

/-- The fraction has 16 bits (R147). -/
theorem interpFraction_lt {x e : Nat} (h : x < 2 ^ (e + 1)) : (x - 2 ^ e) * 2 ^ 16 / 2 ^ e < 2 ^ 16 := by
  rw [pow_succ] at h
  rw [Nat.div_lt_iff_lt_mul (Nat.two_pow_pos _), Nat.mul_comm]
  exact Nat.mul_lt_mul_of_pos_left (by omega) (by norm_num)

/-- The seed and the interpolation (R144, R147): the fraction, below 2^16, is not reduced. -/
theorem rsqrtSeeded_eq_ofNat (T : Config.Table) {e : Fin 32} (hlow : 2 ^ e.val ≤ x.toNat)
    (hhigh : x.toNat < 2 ^ (e.val + 1)) :
    rsqrtSeeded T x =
      if 2 ^ e.val < x.toNat then
        T.get e - BitVec.ofNat 32 ((T.get e - tableNext T (BitVec.ofFin e)).toNat *
          ((x.toNat - 2 ^ e.val) * 2 ^ 16 / 2 ^ e.val) / 2 ^ 16)
      else T.get e := by
  rw [rsqrtSeeded, highestBit_eq hlow hhigh, rsqrtInterp_eq_ofNat, BitVec.toNat_ofFin, BitVec.toNat_ofNat,
    Nat.mod_eq_of_lt ((interpFraction_lt hhigh).trans (by norm_num))]

/-- The general path of R144. -/
theorem rsqrt32_of_two_le (T : Config.Table) (h : 2 ≤ x.toNat) :
    rsqrt32 T x = nrIterate x (nrIterate x (rsqrtSeeded T x)) := by
  have h0 : x ≠ 0 := by rintro rfl; exact absurd h (by decide)
  have h1 : x ≠ 1 := by rintro rfl; exact absurd h (by decide)
  rw [rsqrt32, if_neg h0, if_neg h1]

/-- Settles O35: the algorithm's lines, each in unbounded arithmetic. -/
theorem rsqrt32Algorithm : Obligations.Rsqrt32Algorithm := by
  intro T x
  refine ⟨fun h => if_pos h, ?_, fun hx e hlow hhigh => ?_⟩
  · rintro rfl
    rfl
  · rw [rsqrt32_of_two_le T hx, nrIterate_eq_ofNat, nrIterate_eq_ofNat, rsqrtSeeded_eq_ofNat T hlow hhigh]
    rfl

/-! ### The datapath -/

/-- RSQRT's datapath after its first `k` micro-steps. -/
def State.rsqrtRun (T : Config.Table) (s : State) (k : Nat) : State := (List.range k).foldl (fun u j => u.rsqrtStep T j) s

@[simp] theorem State.rsqrtRun_zero (T : Config.Table) (s : State) : s.rsqrtRun T 0 = s := rfl

theorem State.rsqrtRun_succ (T : Config.Table) (s : State) (k : Nat) :
    s.rsqrtRun T (k + 1) = (s.rsqrtRun T k).rsqrtStep T k := by
  simp [State.rsqrtRun, List.range_succ]

theorem rsqrtRun_progress (T : Config.Table) (s : State) (hk : k ≤ 12) :
    RsqrtProgress T k (s.rsqrtLoad.rsqrtRun T k) := by
  induction k with
  | zero => exact rsqrtLoad_progress T s
  | succ k ih => rw [State.rsqrtRun_succ]; exact rsqrtStep_progress T hk (ih (by omega))

/-- The micro-steps keep the latched operand (R28, R150). -/
theorem rsqrtRun_a (T : Config.Table) (s : State) (k : Nat) : (s.rsqrtRun T k).a = s.a := by
  induction k with
  | zero => rfl
  | succ k ih => rw [State.rsqrtRun_succ]; exact (rsqrtStep_other T k _).a.trans ih

/-- The completion rule reads the edge case, or the estimate (R151). -/
theorem rsqrtResults_eq_ite (s : State) :
    s.rsqrtResults = (if s.edge = .zero then 0xFFFFFFFF else if s.edge = .one then 0x00010000 else s.y, 0) := by
  rw [State.rsqrtResults]
  cases s.edge <;> rfl

/-- Settles O36: the micro-steps from the load of an acceptance make the estimator's progress. -/
theorem rsqrtDatapathComputesRsqrt32 : Obligations.RsqrtDatapathComputesRsqrt32 := by
  intro T s t
  have hrun : t = (s.rsqrtLoad.rsqrtRun T 12).rsqrtStep T 12 := State.rsqrtRun_succ T s.rsqrtLoad 12
  have hresults : t.rsqrtResults = (rsqrt32 T s.a, 0) := by
    rw [hrun, rsqrtResults_of_progress T (rsqrtRun_progress T s le_rfl), rsqrtRun_a, State.rsqrtLoad_a]
  clear_value t
  refine ⟨?_, hresults⟩
  rw [rsqrtResults_eq_ite] at hresults
  exact congrArg Prod.fst hresults

/-! ### A request -/

/-- Settles O37: an idle unit completes RSQRT after LAT = 13 micro-steps, with its pure result. -/
theorem rsqrtResult : Obligations.RsqrtResult := by
  intro s a b hidle
  exact acceptedAndCompletes_of_idle hidle (.rsqrt a b)

/-- Settles O38: each request's pure result, and the stages of the trace one by one. -/
theorem rsqrtRegressionVectors : Obligations.RsqrtRegressionVectors := by
  refine ⟨fun s b hidle => ⟨rsqrtResult s 0 b hidle, rsqrtResult s 1 b hidle, fun htable => ?_⟩, by decide⟩
  have h := rsqrtResult s 5 b hidle
  have h5 : rsqrt32 s.table 5 = 0x727C := by rw [htable]; decide
  rwa [h5] at h

/-! ### The micro-steps of a request -/

/-- The micro-step that completes RSQRT in flight is number 12 (R199). -/
theorem rsqrt_cnt_succ_eq_lat_iff (h : Op.ofCode s.op = .rsqrt) :
    (s.cnt + 1).toNat = lat (Op.ofCode s.op) ↔ s.cnt = 12 := by
  rw [h, lat]
  bv_omega

/-- A micro-step of RSQRT in flight before the last one: the datapath and the count (R150, R196). -/
theorem microstep_rsqrt (h : Op.ofCode s.op = .rsqrt) (hcnt : s.cnt ≠ 12) :
    s.microstep = (s.rsqrtStep s.table s.cnt.toNat).countStep := by
  obtain ⟨hlat, -⟩ | ⟨-, hm⟩ := microstep_cases s
  · exact absurd ((rsqrt_cnt_succ_eq_lat_iff h).1 hlat) hcnt
  · rw [hm, datapath_rsqrt h]

/-- The last one completes the request (R151, R197). -/
theorem microstep_rsqrt_last (h : Op.ofCode s.op = .rsqrt) (hcnt : s.cnt = 12) :
    s.microstep =
      let t := s.rsqrtStep s.table 12
      { t with
        cnt := 13, r0 := some t.rsqrtResults.1, r1 := some t.rsqrtResults.2
        busy := false, done := true, illop := false } := by
  have hc := (rsqrtStep_other s.table 12 s).toSameControl
  have hop : Op.ofCode (s.rsqrtStep s.table 12).countStep.op = .rsqrt := by rw [State.countStep_op, hc.op, h]
  have hk : s.cnt.toNat = 12 := congrArg BitVec.toNat hcnt
  obtain ⟨-, hm⟩ | ⟨hlat, -⟩ := microstep_cases s
  · rw [hm, datapath_rsqrt h, hk, State.complete, results_rsqrt hop, hop, State.countStep, hc.cnt, hcnt]
    rfl
  · exact absurd ((rsqrt_cnt_succ_eq_lat_iff h).2 hcnt) hlat

/-- The event of RSQRT in flight at micro-step `k`, whichever request is offered. -/
theorem exec_rsqrt (hb : s.busy = true) (hop : s.op = 4) (i : Instr) (hk : k < 12) (hcnt : s.cnt = BitVec.ofNat 6 k) :
    exec i s = .next (s.rsqrtStep s.table k).countStep := by
  have hk' : s.cnt.toNat = k := by rw [hcnt, BitVec.toNat_ofNat]; omega
  have hne : s.cnt ≠ 12 := by bv_omega
  rw [exec_busy hb, microstep_rsqrt (by rw [hop]; rfl) hne, hk']

theorem rsqrtStep_clz (T : Config.Table) (s : State) (hk : k ≤ 4) : s.rsqrtStep T k = s.clzStep k := by
  interval_cases k <;> rfl

theorem countStep_unlessEdge (s t : State) :
    (s.unlessEdge t).countStep = if s.edge = .none then t.countStep else s.countStep := apply_ite ..

/-- The exponent that SEED computes, as the number it takes from the count (R150). -/
theorem seedExponent_eq_ofNat (s : State) :
    (31 - s.clzCount).setWidth 5 = BitVec.ofNat 5 (31 - (BitVec.ofNat 32 s.n.toNat - s.v)).toNat := by
  rw [clzCount_eq_ofNat_sub]
  rfl

/-- Settles O23: the micro-step of the latch, row by row of the schedule. -/
theorem rsqrtMicrosteps : Obligations.RsqrtMicrosteps := by
  intro i s hb hop T c lz e pow ynext frac u
  have hrow {k : Nat} (hk : k < 12) (hcnt : s.cnt = BitVec.ofNat 6 k) := exec_rsqrt hb hop i hk hcnt
  refine ⟨fun h => ?_, fun h => ?_, fun h => ?_, ?_, ?_, fun h => ?_⟩
  -- CLZ
  · rw [hrow (k := s.cnt.toNat) (by omega) (by simp), rsqrtStep_clz _ _ h]
    exact congrArg _ (apply_ite State.countStep ..)
  -- SEED
  · rw [hrow (k := 5) (by omega) h, State.rsqrtStep]
    obtain ⟨h0, hs⟩ | ⟨h1, hs⟩ | ⟨h0, h1, hs⟩ := rsqrtSeed_cases s.table s <;> rw [hs]
    · rw [if_pos h0]; rfl
    · rw [if_neg (by rw [h1]; decide), if_pos h1]; rfl
    · rw [if_neg h0, if_neg h1, seedExponent_eq_ofNat]; rfl
  -- INTERP
  · rw [hrow (k := 6) (by omega) h, State.rsqrtStep, countStep_unlessEdge, rsqrtInterp_eq_ofNat, ite_and]
    by_cases hlt : pow < s.a.toNat
    · rw [if_pos hlt, if_pos hlt]; rfl
    · rw [if_neg hlt, if_neg hlt]; rfl
  -- SQUARE
  · rintro (h | h)
    · rw [hrow (k := 7) (by omega) h, State.rsqrtStep, countStep_unlessEdge, nrSquare_eq_ofNat]; rfl
    · rw [hrow (k := 10) (by omega) h, State.rsqrtStep, countStep_unlessEdge, nrSquare_eq_ofNat]; rfl
  -- SCALE
  · rintro (h | h)
    · rw [hrow (k := 8) (by omega) h, State.rsqrtStep, countStep_unlessEdge, nrScale_eq_ofNat]; rfl
    · rw [hrow (k := 11) (by omega) h, State.rsqrtStep, countStep_unlessEdge, nrScale_eq_ofNat]; rfl
  -- UPDATE
  · rw [hrow (k := 9) (by omega) h, State.rsqrtStep, countStep_unlessEdge, nrUpdate_eq_ofNat]; rfl

/-- Settles O24: the micro-step of the latch, by the edge case. -/
theorem rsqrtLastMicrostep : Obligations.RsqrtLastMicrostep := by
  intro i s hb hop hcnt
  rw [exec_busy hb, microstep_rsqrt_last (by rw [hop]; rfl) hcnt, State.rsqrtStep, nrUpdate_eq_ofNat]
  obtain ⟨he, hu⟩ | ⟨he, hu⟩ := unlessEdge_cases s _ <;> rw [hu]
  · simp only [rsqrtResults_eq_ite, he]
    rfl
  · cases hedge : s.edge with
    | none => exact absurd hedge he
    | zero => simp only [rsqrtResults_eq_ite, hedge]; rfl
    | one => simp only [rsqrtResults_eq_ite, hedge]; rfl

end Sys2Proof.Machine
end

section
/-!
PROOFS. 43_rsqrt.md R141, R142 and R149: the decided table, and why no intermediate of the algorithm wraps with it.
-/
namespace Sys2Proof.Machine
variable {x y : Word} {e : Fin 32}

/-! ### The decided table -/

/-- Each entry of the decided table is above the next, where 0 stands for the missing entry 32 (R142). -/
theorem tableNext_lt_get : ∀ k : Fin 32, tableNext Config.rsqrtTable (BitVec.ofFin k) < Config.rsqrtTable.get k := by
  decide

theorem tableNext_eq_get (T : Config.Table) {k : Fin 32} (h : k.val < 31) :
    tableNext T (BitVec.ofFin k) = T.get ⟨k.val + 1, by omega⟩ := dif_pos h

/-- Settles O39: the decided table entry by entry; over any table, subtraction modulo 2^32. -/
theorem rsqrtTableDecreases : Obligations.RsqrtTableDecreases := by
  refine ⟨fun k h => ?_, by decide, by decide, by decide, fun T k => ⟨fun hle => ?_, fun hlt => ?_⟩⟩
  · rw [← tableNext_eq_get _ h]
    exact tableNext_lt_get k
  · exact BitVec.toNat_sub_of_le hle
  · rw [BitVec.toNat_sub_of_lt hlt]; omega

/-- Settles O40, entry by entry. -/
theorem rsqrtTableIsNearest : Obligations.RsqrtTableIsNearest := by
  unfold Obligations.RsqrtTableIsNearest
  decide

/-! ### No intermediate wraps (R149) -/

/-- The bounds under which no intermediate of an iteration on the estimate y wraps (R149). -/
structure EstimateFits (x y : Word) : Prop where
  yLt : y.toNat < 2 ^ 16
  scaled : x.toNat * (y.toNat * y.toNat) ≤ 3 * 2 ^ 32

theorem EstimateFits.sq_lt (h : EstimateFits x y) : y.toNat * y.toNat < 2 ^ 32 :=
  (Nat.mul_lt_mul'' h.yLt h.yLt).trans_eq (by norm_num)

/-- A fitting iteration in the arithmetic of the natural numbers. -/
theorem EstimateFits.nrIterate_toNat (h : EstimateFits x y) :
    (nrIterate x y).toNat = y.toNat * (3 * 2 ^ 16 - x.toNat * (y.toNat * y.toNat) / 2 ^ 16) / 2 ^ 17 := by
  rw [nrIterate_eq_ofNat, Nat.mod_eq_of_lt h.sq_lt]
  obtain ⟨hy, hs⟩ := h
  generalize x.toNat * (y.toNat * y.toNat) = p at hs
  have hterm : (0x30000 - BitVec.ofNat 32 (p / 2 ^ 16)).toNat = 3 * 2 ^ 16 - p / 2 ^ 16 := by
    have hp : (BitVec.ofNat 32 (p / 2 ^ 16)).toNat = p / 2 ^ 16 := by rw [BitVec.toNat_ofNat]; omega
    rw [BitVec.toNat_sub_of_le (by rw [BitVec.le_def, hp]; change _ ≤ 196608; omega), hp]
    rfl
  rw [hterm, BitVec.toNat_ofNat]
  have hprod := Nat.mul_le_mul hy.le (Nat.sub_le (3 * 2 ^ 16) (p / 2 ^ 16))
  exact Nat.mod_eq_of_lt (by omega)

/-- A number times the square of another, bounded by the cube of their sum. -/
theorem mul_sq_le_add_cube (u v : ℕ) : 27 * (u * v ^ 2) ≤ 4 * (u + v) ^ 3 := by
  zify
  nlinarith [mul_nonneg (by positivity : (0 : ℤ) ≤ 4 * u + v) (sq_nonneg (v - 2 * u : ℤ))]

/-- Newton-Raphson's step q ↦ q·(3 − q)²/4 on the square q of an estimate's ratio to 65536/√x is at most 1: whatever the
estimate was, the next one is too large by no more than the truncation of xy2 makes it. -/
theorem EstimateFits.nrIterate_scaled_le (h : EstimateFits x y) :
    x.toNat * ((nrIterate x y).toNat * (nrIterate x y).toNat) ≤ 2 ^ 32 + 2 ^ 16 := by
  rw [h.nrIterate_toNat]
  have hs := h.scaled
  generalize hp : x.toNat * (y.toNat * y.toNat) = p at hs
  generalize ht : 3 * 2 ^ 16 - p / 2 ^ 16 = t
  generalize hz : y.toNat * t / 2 ^ 17 = z
  have hzt : 2 ^ 17 * z ≤ y.toNat * t := hz ▸ Nat.mul_div_le _ _
  have hcube := mul_sq_le_add_cube (p / 2 ^ 16 + 1) t
  rw [show p / 2 ^ 16 + 1 + t = 3 * 2 ^ 16 + 1 by omega] at hcube
  have hscaled : 2 ^ 34 * (x.toNat * (z * z)) ≤ 2 ^ 16 * ((p / 2 ^ 16 + 1) * t ^ 2) :=
    calc 2 ^ 34 * (x.toNat * (z * z)) = x.toNat * (2 ^ 17 * z * (2 ^ 17 * z)) := by ring
      _ ≤ x.toNat * (y.toNat * t * (y.toNat * t)) := Nat.mul_le_mul_left _ (Nat.mul_le_mul hzt hzt)
      _ = p * t ^ 2 := by rw [← hp]; ring
      _ ≤ 2 ^ 16 * (p / 2 ^ 16 + 1) * t ^ 2 := Nat.mul_le_mul_right _ (by omega)
      _ = 2 ^ 16 * ((p / 2 ^ 16 + 1) * t ^ 2) := by ring
  omega

/-- The iteration's estimate fits again. -/
theorem EstimateFits.next (hx : 2 ≤ x.toNat) (h : EstimateFits x y) : EstimateFits x (nrIterate x y) := by
  have hscaled := h.nrIterate_scaled_le
  refine ⟨?_, hscaled.trans (by omega)⟩
  by_contra hy
  have := Nat.mul_le_mul hx (Nat.mul_le_mul (not_lt.1 hy) (not_lt.1 hy))
  omega

/-- Every word but 0 has its highest set bit at one of the table's indices. -/
theorem exists_exponent (hx : 0 < x.toNat) : ∃ e : Fin 32, 2 ^ e.val ≤ x.toNat ∧ x.toNat < 2 ^ (e.val + 1) :=
  ⟨⟨x.toNat.log2, (Nat.log2_lt hx.ne').2 x.isLt⟩, Nat.log2_self_le hx.ne', Nat.lt_log2_self⟩

/-- With the decided table the interpolation does not wrap (R147). -/
theorem rsqrtSeeded_toNat (hlow : 2 ^ e.val ≤ x.toNat) (hhigh : x.toNat < 2 ^ (e.val + 1)) :
    (rsqrtSeeded Config.rsqrtTable x).toNat =
      (Config.rsqrtTable.get e).toNat -
        ((Config.rsqrtTable.get e).toNat - (tableNext Config.rsqrtTable (BitVec.ofFin e)).toNat) *
          ((x.toNat - 2 ^ e.val) * 2 ^ 16 / 2 ^ e.val) / 2 ^ 16 := by
  have hfrac := interpFraction_lt hhigh
  have hdelta := BitVec.toNat_sub_of_le (BitVec.le_of_lt (tableNext_lt_get e))
  have hseed := (Config.rsqrtTable.get e).isLt
  rw [rsqrtSeeded_eq_ofNat _ hlow hhigh, hdelta]
  have hle := Nat.sub_le (Config.rsqrtTable.get e).toNat (tableNext Config.rsqrtTable (BitVec.ofFin e)).toNat
  generalize (Config.rsqrtTable.get e).toNat - (tableNext Config.rsqrtTable (BitVec.ofFin e)).toNat = d at *
  by_cases h : 2 ^ e.val < x.toNat
  · have hprod := Nat.mul_le_mul_left d hfrac.le
    have hsub : (BitVec.ofNat 32 (d * ((x.toNat - 2 ^ e.val) * 2 ^ 16 / 2 ^ e.val) / 2 ^ 16)).toNat =
        d * ((x.toNat - 2 ^ e.val) * 2 ^ 16 / 2 ^ e.val) / 2 ^ 16 := by
      rw [BitVec.toNat_ofNat]; omega
    rw [if_pos h, BitVec.toNat_sub_of_le (by rw [BitVec.le_def, hsub]; omega), hsub]
  · rw [if_neg h, Nat.sub_eq_zero_of_le (not_lt.1 h), Nat.zero_mul, Nat.zero_div, Nat.mul_zero, Nat.zero_div, Nat.sub_zero]

/-- The estimate that enters the first iteration is at most the seed (R147). -/
theorem rsqrtSeeded_le (hlow : 2 ^ e.val ≤ x.toNat) (hhigh : x.toNat < 2 ^ (e.val + 1)) :
    (rsqrtSeeded Config.rsqrtTable x).toNat ≤ (Config.rsqrtTable.get e).toNat :=
  (rsqrtSeeded_toNat hlow hhigh).trans_le (Nat.sub_le _ _)

/-- The seeds are small enough for every input of their range (R149). -/
theorem table_fits : ∀ e : Fin 32, 1 ≤ e.val →
    (Config.rsqrtTable.get e).toNat < 2 ^ 16 ∧
    2 ^ (e.val + 1) * ((Config.rsqrtTable.get e).toNat * (Config.rsqrtTable.get e).toNat) ≤ 3 * 2 ^ 32 := by
  decide

theorem rsqrtSeeded_fits (hx : 2 ≤ x.toNat) : EstimateFits x (rsqrtSeeded Config.rsqrtTable x) := by
  obtain ⟨e, hlow, hhigh⟩ := exists_exponent (x := x) (by omega)
  have he : 1 ≤ e.val := by
    by_contra h
    rw [Nat.lt_one_iff.1 (not_le.1 h)] at hhigh
    omega
  obtain ⟨hlt, hfits⟩ := table_fits e he
  have hle := rsqrtSeeded_le hlow hhigh
  exact ⟨hle.trans_lt hlt, (Nat.mul_le_mul hhigh.le (Nat.mul_le_mul hle hle)).trans hfits⟩

/-- Settles O41: the estimates of both iterations fit. -/
theorem rsqrtIntermediatesFit : Obligations.RsqrtIntermediatesFit := by
  intro x hx y hy xy2
  have h : EstimateFits x y := by
    obtain rfl | rfl := hy
    · exact rsqrtSeeded_fits hx
    · exact (rsqrtSeeded_fits hx).next hx
  have hsq := h.sq_lt
  obtain ⟨hlt, hscaled⟩ := h
  have hupdate := Nat.mul_le_mul hlt.le (Nat.sub_le (3 * 2 ^ 16) xy2)
  refine ⟨hsq, hscaled.trans_lt (by norm_num), by omega, by omega⟩

end Sys2Proof.Machine
end

section
/-!
PROOFS. 43_rsqrt.md R143 and R155: powers of two, and the points where RSQRT rises (log 14).
-/
namespace Sys2Proof.Machine
/-! ### Powers of two and the points where RSQRT rises -/

/-- The seed of a power of two is not interpolated (R147). -/
theorem rsqrtSeeded_powerOfTwo (T : Config.Table) (e : Fin 32) : rsqrtSeeded T (1#32 <<< e.val) = T.get e := by
  have hpow : (1#32 <<< e.val).toNat = 2 ^ e.val := powerOfTwo_toNat (BitVec.ofFin e)
  rw [rsqrtSeeded_eq_ofNat T hpow.ge (hpow.trans_lt (Nat.pow_lt_pow_succ (by omega))), if_neg hpow.not_gt]

/-- What two iterations make of the decided table's entries at the powers of two (R148, log 14). -/
theorem nrIterate_powerOfTwo : ∀ e : Fin 32, 1 ≤ e.val →
    nrIterate (1#32 <<< e.val) (nrIterate (1#32 <<< e.val) (Config.rsqrtTable.get e)) =
      if e.val = 7 ∨ e.val = 19 ∨ e.val = 23 ∨ e.val = 27 ∨ e.val = 29 then Config.rsqrtTable.get e - 1
      else Config.rsqrtTable.get e := by
  decide

/-- Settles O44: the seed by the general fact, and its two iterations entry by entry. -/
theorem rsqrtOfPowersOfTwo : Obligations.RsqrtOfPowersOfTwo := by
  intro e he
  have hpow : (1#32 <<< e.val).toNat = 2 ^ e.val := powerOfTwo_toNat (BitVec.ofFin e)
  have hseed := rsqrtSeeded_powerOfTwo Config.rsqrtTable e
  have hx : 2 ≤ (1#32 <<< e.val).toNat := hpow ▸ Nat.pow_le_pow_right (n := 2) (by omega) he
  refine ⟨hseed, ?_⟩
  rw [rsqrt32_of_two_le _ hx, hseed]
  exact nrIterate_powerOfTwo e he

/-- Settles O43: both values at each of the nine points. -/
theorem rsqrtNonMonotonePoints : Obligations.RsqrtNonMonotonePoints := by
  unfold Obligations.RsqrtNonMonotonePoints
  decide

end Sys2Proof.Machine
end

section
/-!
PROOFS. 43_rsqrt.md R154: the accuracy of RSQRT below 4169.
-/
namespace Sys2Proof.Machine
variable {x y : Word}

/-! ### The interpolated seed -/

/-- Below 2^17 the fraction of the interpolation loses no bit of x (R147). -/
theorem interpFraction_exact {x e : ℕ} (he : e ≤ 16) (hlow : 2 ^ e ≤ x) :
    2 ^ 16 * x = 2 ^ e * (2 ^ 16 + (x - 2 ^ e) * 2 ^ 16 / 2 ^ e) := by
  have hdvd : 2 ^ e ∣ (x - 2 ^ e) * 2 ^ 16 := (pow_dvd_pow 2 he).mul_left _
  rw [Nat.mul_add, Nat.mul_div_cancel' hdvd, Nat.sub_mul, Nat.mul_comm (2 ^ 16) x]
  have := Nat.mul_le_mul_right (2 ^ 16) hlow
  omega

section Chord

/-! The chord from an entry a of the table down by Δ to the next: `E` is the power of 2 below the input x, and `F` the fraction
of x in its range. -/

variable {E a Δ F x y : ℕ} (hx : 2 ^ 16 * x = E * (2 ^ 16 + F)) (hF : F < 2 ^ 16) (hy : y = a - Δ * F / 2 ^ 16)
include hx hF hy

/-- A chord that falls by at most 3/10 of its entry lies high enough. -/
theorem chord_lower (hΔ : 10 * Δ ≤ 3 * a) : 98 * (E * a ^ 2) ≤ x * y ^ 2 * 100 := by
  have hchord : a * (10 * 2 ^ 16 - 3 * F) ≤ 10 * (2 ^ 16 * y) := by
    have hdrop := Nat.mul_le_mul_left Δ hF.le
    have hslope : 10 * (Δ * F) ≤ a * (3 * F) := by nlinarith
    rw [Nat.mul_sub]
    omega
  have hpoly : 98 * 2 ^ 48 ≤ (2 ^ 16 + F) * (10 * 2 ^ 16 - 3 * F) ^ 2 := by
    obtain ⟨G, hG⟩ := Nat.exists_eq_add_of_le hF.le
    rw [show 10 * 2 ^ 16 - 3 * F = 7 * 2 ^ 16 + 3 * G by omega]
    zify at hG ⊢
    nlinarith [(by positivity : (0 : ℤ) ≤ G * F * G)]
  refine le_of_mul_le_mul_left (a := 2 ^ 48) ?_ (by norm_num)
  calc 2 ^ 48 * (98 * (E * a ^ 2)) = E * (98 * 2 ^ 48) * a ^ 2 := by ring
    _ ≤ E * ((2 ^ 16 + F) * (10 * 2 ^ 16 - 3 * F) ^ 2) * a ^ 2 := by gcongr
    _ = 2 ^ 16 * x * (a * (10 * 2 ^ 16 - 3 * F)) ^ 2 := by rw [hx]; ring
    _ ≤ 2 ^ 16 * x * (10 * (2 ^ 16 * y)) ^ 2 := by gcongr
    _ = 2 ^ 48 * (x * y ^ 2 * 100) := by ring

/-- A chord lies low enough at its highest point. -/
theorem chord_upper (hΔ : Δ ≤ a) : 27 * Δ * (x * y ^ 2) ≤ E * (4 * (a + Δ + 1) ^ 3) := by
  have hdrop := Nat.mul_le_mul_left Δ hF.le
  have hcube := mul_sq_le_add_cube (Δ * (2 ^ 16 + F)) (2 ^ 16 * y)
  have hsum : Δ * (2 ^ 16 + F) + 2 ^ 16 * y ≤ 2 ^ 16 * (a + Δ + 1) := by
    rw [Nat.mul_add]
    omega
  refine le_of_mul_le_mul_left (a := 2 ^ 48) ?_ (by norm_num)
  calc 2 ^ 48 * (27 * Δ * (x * y ^ 2)) = 27 * Δ * (2 ^ 16 * x) * (2 ^ 16 * y) ^ 2 := by ring
    _ = E * (27 * (Δ * (2 ^ 16 + F) * (2 ^ 16 * y) ^ 2)) := by rw [hx]; ring
    _ ≤ E * (4 * (Δ * (2 ^ 16 + F) + 2 ^ 16 * y) ^ 3) := Nat.mul_le_mul_left E hcube
    _ ≤ E * (4 * (2 ^ 16 * (a + Δ + 1)) ^ 3) := by gcongr
    _ = 2 ^ 48 * (E * (4 * (a + Δ + 1) ^ 3)) := by ring

end Chord

/-- What the decided table gives for the chords below 2^13. -/
theorem table_chords : ∀ e : Fin 32, 1 ≤ e.val → e.val ≤ 12 →
    let a := (Config.rsqrtTable.get e).toNat
    let Δ := a - (tableNext Config.rsqrtTable (BitVec.ofFin e)).toNat
    0 < Δ ∧ 10 * Δ ≤ 3 * a ∧ 95 * 2 ^ 32 ≤ 98 * (2 ^ e.val * a ^ 2) ∧
    2 ^ e.val * (4 * (a + Δ + 1) ^ 3) * 1000 ≤ 27 * Δ * (1096 * 2 ^ 32) := by
  decide

/-- The square of the ratio of an estimate y to 65536/√x (R154). -/
def ratioSq (x y : ℕ) : ℚ := x * y ^ 2 / 2 ^ 32

/-- Below 2^13 the interpolated seed is near 65536/√x. -/
theorem ratioSq_rsqrtSeeded (hx : 2 ≤ x.toNat) (hx' : x.toNat < 2 ^ 13) :
    95 / 100 ≤ ratioSq x.toNat (rsqrtSeeded Config.rsqrtTable x).toNat ∧
    ratioSq x.toNat (rsqrtSeeded Config.rsqrtTable x).toNat ≤ 1096 / 1000 := by
  obtain ⟨e, hlow, hhigh⟩ := exists_exponent (x := x) (by omega)
  have he : 1 ≤ e.val := Nat.le_of_lt_succ ((Nat.pow_lt_pow_iff_right Nat.one_lt_two).1 (lt_of_le_of_lt hx hhigh))
  have he' : e.val ≤ 12 := Nat.le_of_lt_succ ((Nat.pow_lt_pow_iff_right Nat.one_lt_two).1 (lt_of_le_of_lt hlow hx'))
  obtain ⟨hpos, hΔ, hbase, hpeak⟩ := table_chords e he he'
  have hexact := interpFraction_exact (by omega) hlow
  have hF := interpFraction_lt hhigh
  have hy := rsqrtSeeded_toNat hlow hhigh
  have hlower := hbase.trans (chord_lower hexact hF hy hΔ)
  have hupper := (Nat.mul_le_mul_right 1000 (chord_upper hexact hF hy (Nat.sub_le _ _))).trans hpeak
  rw [Nat.mul_assoc] at hupper
  have hupper := Nat.le_of_mul_le_mul_left hupper (Nat.mul_pos (by norm_num) hpos)
  rw [ratioSq]
  constructor
  · rw [div_le_div_iff₀ (by norm_num) (by norm_num)]
    exact_mod_cast hlower
  · rw [div_le_div_iff₀ (by norm_num) (by norm_num)]
    exact_mod_cast hupper

/-! ### The two iterations -/

/-- Newton-Raphson's step q ↦ q·(3 − q)²/4, but for the truncation of the new estimate (R148). -/
theorem EstimateFits.newton_le_ratioSq (h : EstimateFits x y) :
    ratioSq x.toNat y.toNat * (3 - ratioSq x.toNat y.toNat) ^ 2 / 4 ≤ ratioSq x.toNat ((nrIterate x y).toNat + 1) := by
  rw [h.nrIterate_toNat]
  obtain ⟨-, hs⟩ := h
  generalize x.toNat = x at *
  generalize y.toNat = y at *
  generalize hp : x * (y * y) = p at *
  generalize ht : 3 * 2 ^ 16 - p / 2 ^ 16 = t
  have hq : ratioSq x y = p / 2 ^ 32 := by rw [ratioSq, ← hp]; push_cast; ring
  have hq3 : ratioSq x y ≤ 3 := by rw [hq, div_le_iff₀ (by norm_num)]; exact_mod_cast hs
  have hterm : 2 ^ 16 * (3 - ratioSq x y) ≤ t := by
    have : 3 * 2 ^ 32 ≤ 2 ^ 16 * t + p := by omega
    have : (3 * 2 ^ 32 : ℚ) ≤ 2 ^ 16 * t + p := by exact_mod_cast this
    rw [hq]; linarith
  have hfloor : (y * t : ℚ) ≤ 2 ^ 17 * ((y * t / 2 ^ 17 : ℕ) + 1) := by
    have : y * t ≤ 2 ^ 17 * (y * t / 2 ^ 17 + 1) := by omega
    exact_mod_cast this
  have hstep : y * (3 - ratioSq x y) / 2 ≤ (y * t / 2 ^ 17 : ℕ) + 1 := by
    have := mul_le_mul_of_nonneg_left hterm (Nat.cast_nonneg (α := ℚ) y)
    linarith
  calc ratioSq x y * (3 - ratioSq x y) ^ 2 / 4 = (x : ℚ) * (y * (3 - ratioSq x y) / 2) ^ 2 / 2 ^ 32 := by
        rw [ratioSq]; ring
    _ ≤ (x : ℚ) * ((y * t / 2 ^ 17 : ℕ) + 1) ^ 2 / 2 ^ 32 := by
        have : 0 ≤ y * (3 - ratioSq x y) / 2 := by have := sub_nonneg.2 hq3; positivity
        gcongr
    _ = ratioSq x (y * t / 2 ^ 17 + 1) := by rw [ratioSq]; push_cast; rfl

/-- Every estimate after an iteration is at most 65536/√x, but for the truncation of xy2. -/
theorem EstimateFits.ratioSq_le (h : EstimateFits x y) : ratioSq x.toNat (nrIterate x y).toNat ≤ 1 + 1 / 2 ^ 16 := by
  have hle : x.toNat * (nrIterate x y).toNat ^ 2 ≤ 2 ^ 32 + 2 ^ 16 := by
    rw [sq]; exact h.nrIterate_scaled_le
  have hle : (x.toNat * (nrIterate x y).toNat ^ 2 : ℚ) ≤ 2 ^ 32 + 2 ^ 16 := by exact_mod_cast hle
  rw [ratioSq, div_le_iff₀ (by norm_num)]
  linarith

/-- The truncation of an estimate loses little when the estimate is large. -/
theorem ratioSq_of_succ {x z L : ℕ} {r : ℚ} (hx : x ≤ 3840) (hL : L ^ 2 * 3840 < r * 2 ^ 32)
    (h : r ≤ ratioSq x (z + 1)) : (L / (L + 1)) ^ 2 * r ≤ ratioSq x z := by
  have hz : L ≤ z := by
    by_contra hlt
    have hsucc : ratioSq x (z + 1) ≤ 3840 * L ^ 2 / 2 ^ 32 := by
      rw [ratioSq]
      gcongr
      · exact_mod_cast hx
      · exact_mod_cast not_le.1 hlt
    linarith
  have hratio : (L / (L + 1) : ℚ) ≤ z / (z + 1) := by
    rw [div_le_div_iff₀ (by positivity) (by positivity)]
    have : (L : ℚ) ≤ z := by exact_mod_cast hz
    linarith
  calc (L / (L + 1)) ^ 2 * r ≤ (L / (L + 1)) ^ 2 * ratioSq x (z + 1) := by gcongr
    _ ≤ (z / (z + 1)) ^ 2 * ratioSq x (z + 1) := by
        have : 0 ≤ ratioSq x (z + 1) := by rw [ratioSq]; positivity
        gcongr
    _ = ratioSq x z := by rw [ratioSq, ratioSq]; push_cast; field_simp

/-- Newton-Raphson's step makes a deviation ε from 1 quadratically small. -/
theorem newton_converges {q ε : ℚ} (hlow : 1 - ε ≤ q) (hhigh : q ≤ 1 + ε) (hε : ε ≤ 1) :
    1 - (3 + ε) / 4 * ε ^ 2 ≤ q * (3 - q) ^ 2 / 4 := by
  have hsq : (1 - q) ^ 2 ≤ ε ^ 2 := sq_le_sq' (by linarith) (by linarith)
  have hprod : (1 - q) ^ 2 * (4 - q) ≤ ε ^ 2 * (3 + ε) := by gcongr <;> linarith
  linarith

/-- An iteration on an estimate with deviation ε, with the truncation of the new estimate. -/
theorem EstimateFits.le_ratioSq (h : EstimateFits x y) (hx : x.toNat ≤ 3840) {ε : ℚ} {L : ℕ}
    (hlow : 1 - ε ≤ ratioSq x.toNat y.toNat) (hhigh : ratioSq x.toNat y.toNat ≤ 1 + ε) (hε : ε ≤ 1)
    (hL : L ^ 2 * 3840 < (1 - (3 + ε) / 4 * ε ^ 2) * 2 ^ 32) :
    (L / (L + 1)) ^ 2 * (1 - (3 + ε) / 4 * ε ^ 2) ≤ ratioSq x.toNat (nrIterate x y).toNat :=
  ratioSq_of_succ hx hL ((newton_converges hlow hhigh hε).trans h.newton_le_ratioSq)

/-- Up to 3840 the two iterations bring an estimate with a deviation of 96/1000 to less than 1/1024 below 65536/√x, though each
truncates up to one unit: the results are from 1057 up, and there a unit is less than 1/1024 by more than what is left of the
deviation. -/
theorem lt_ratioSq_rsqrt32 (hx : 2 ≤ x.toNat) (hx' : x.toNat ≤ 3840) :
    (1023 / 1024) ^ 2 < ratioSq x.toNat (rsqrt32 Config.rsqrtTable x).toNat := by
  obtain ⟨hlow, hhigh⟩ := ratioSq_rsqrtSeeded hx (by omega)
  have hfits := rsqrtSeeded_fits hx
  have hfirst := hfits.le_ratioSq hx' (ε := 96 / 1000) (L := 1053)
    (by linarith) (by linarith) (by norm_num) (by norm_num)
  have hfirst' := hfits.ratioSq_le
  have hsecond := (hfits.next hx).le_ratioSq hx' (ε := 902 / 100000) (L := 1057)
    (le_trans (by norm_num) hfirst) (hfirst'.trans (by norm_num)) (by norm_num) (by norm_num)
  rw [rsqrt32_of_two_le _ hx]
  exact lt_of_lt_of_le (by norm_num) hsecond

/-- No result is too large (R154): this holds for every input from 2. -/
theorem ratioSq_rsqrt32_le (hx : 2 ≤ x.toNat) :
    ratioSq x.toNat (rsqrt32 Config.rsqrtTable x).toNat ≤ 1 + 1 / 2 ^ 16 := by
  rw [rsqrt32_of_two_le _ hx]
  exact ((rsqrtSeeded_fits hx).next hx).ratioSq_le

/-! ### The obligation -/

/-- The accuracy bound at x, squared (R154). -/
abbrev AccurateAt (x : ℕ) : Prop :=
  1023 ^ 2 * 2 ^ 32 < (rsqrt32 Config.rsqrtTable (BitVec.ofNat 32 x)).toNat ^ 2 * x * 2 ^ 20 ∧
  (rsqrt32 Config.rsqrtTable (BitVec.ofNat 32 x)).toNat ^ 2 * x * 2 ^ 20 < 1025 ^ 2 * 2 ^ 32

/-- Both bounds in terms of the ratio. -/
theorem accurateAt_of_ratioSq {n : ℕ}
    (hlow : (1023 / 1024) ^ 2 < ratioSq n (rsqrt32 Config.rsqrtTable (BitVec.ofNat 32 n)).toNat)
    (hhigh : ratioSq n (rsqrt32 Config.rsqrtTable (BitVec.ofNat 32 n)).toNat ≤ 1 + 1 / 2 ^ 16) : AccurateAt n := by
  unfold AccurateAt
  generalize (rsqrt32 Config.rsqrtTable (BitVec.ofNat 32 n)).toNat = y at *
  rw [ratioSq, lt_div_iff₀ (by norm_num)] at hlow
  rw [ratioSq, div_le_iff₀ (by norm_num)] at hhigh
  have hlow' : (1023 ^ 2 * 2 ^ 32 : ℚ) < y ^ 2 * n * 2 ^ 20 := by linarith
  have hhigh' : (y ^ 2 * n * 2 ^ 20 : ℚ) < 1025 ^ 2 * 2 ^ 32 := by linarith
  exact ⟨by exact_mod_cast hlow', by exact_mod_cast hhigh'⟩

theorem accurateAt_to_3840 {n : ℕ} (hn : 2 ≤ n) (hn' : n ≤ 3840) : AccurateAt n := by
  have hx : (BitVec.ofNat 32 n).toNat = n := by rw [BitVec.toNat_ofNat]; omega
  have hlow := lt_ratioSq_rsqrt32 (x := BitVec.ofNat 32 n) (by omega) (by omega)
  have hhigh := ratioSq_rsqrt32_le (x := BitVec.ofNat 32 n) (by omega)
  rw [hx] at hlow hhigh
  exact accurateAt_of_ratioSq hlow hhigh

/-- From 3841 on an estimate is so small that one unit is nearly 2^-10 of it: whether the bound holds depends on where 65536/√x
stands between two integers. -/
theorem accurateAt_from_3841 : ∀ i : Fin 8, ∀ j : Fin 41, AccurateAt (3841 + (41 * i.val + j.val)) := by
  decide

/-- Settles O42: by convergence up to 3840, and by evaluation at the inputs above. -/
theorem rsqrtAccuracyRange : Obligations.RsqrtAccuracyRange := by
  refine ⟨fun n hn hn' => ?_, by decide⟩
  change AccurateAt n
  obtain rfl | h2 := hn.eq_or_lt
  · decide
  obtain h | h := le_or_gt n 3840
  · exact accurateAt_to_3840 h2 h
  · have hdiv : n = 3841 + (41 * ((n - 3841) / 41) + (n - 3841) % 41) := by omega
    rw [hdiv]
    exact accurateAt_from_3841 ⟨(n - 3841) / 41, by omega⟩ ⟨(n - 3841) % 41, by omega⟩

end Sys2Proof.Machine
end

section
/-!
PROOFS. 60_exceptions.md R170: the unit raises no exception, trap or fault.
-/
namespace Sys2Proof.Machine

/-- A request always has an event of the unit, busy or idle (R170, R194). -/
theorem exec_next (i : Instr) (s : State) : ∃ t, exec i s = .next t := by
  cases hb : s.busy with
  | true => exact ⟨_, exec_busy hb i⟩
  | false => exact ⟨_, exec_idle hb i⟩

/-- A step stops at nothing but a read of no value (R170, R200). -/
theorem step_next {s : State} (h : s.readsSafe = true) : ∃ t, step s = .next t :=
  ⟨_, step_eq_unitEvent (Option.isNone_iff_eq_none.1 h)⟩

/-- Settles O14: the unit's event is total, and so is a step past its reads. -/
theorem requestsNeverTrap : Obligations.RequestsNeverTrap :=
  ⟨exec_next, fun _ h => step_next h⟩

end Sys2Proof.Machine
end

section
/-!
PROOFS. 70_reset_and_hazards.md R190, R191, R193 to R195 and R200: the events of one step: RESET, the acceptance, the host's reads.
-/
namespace Sys2Proof.Machine

variable {s t : State}

/-! ### One step, event by event (R193) -/

theorem readsSafe_of_step (h : step s = .next t) : s.readsSafe = true :=
  have ⟨hnone, _⟩ := step_cases h
  Option.isNone_iff_eq_none.2 hnone

theorem step_of_readsSafe (h : s.readsSafe = true) : step s = .next (s.takeInputs.unitEvent s.ports) :=
  step_eq_unitEvent (Option.isNone_iff_eq_none.1 h)

theorem step_reset (hsafe : s.readsSafe = true) (hrst : s.ports.rst = true) : step s = .next s.takeInputs.applyReset := by
  simp [step_of_readsSafe hsafe, State.unitEvent, hrst]

theorem step_busy (hsafe : s.readsSafe = true) (hrst : s.ports.rst = false) (hb : s.busy = true) :
    step s = .next s.takeInputs.microstep := by
  simp [step_of_readsSafe hsafe, State.unitEvent, hrst, hb]

theorem step_offer (hsafe : s.readsSafe = true) (hrst : s.ports.rst = false) (hidle : s.busy = false) {r : Request}
    (hreq : s.ports.req = some r) : step s = .next (s.takeInputs.accepted (decode r.word)) := by
  simp [step_of_readsSafe hsafe, State.unitEvent, hrst, hidle, hreq]

theorem step_hold (hsafe : s.readsSafe = true) (hrst : s.ports.rst = false) (hidle : s.busy = false)
    (hreq : s.ports.req = none) : step s = .next s.takeInputs := by
  simp [step_of_readsSafe hsafe, State.unitEvent, hrst, hidle, hreq]

/-! ### RESET and power-on (R190, R191) -/

/-- Settles O9: the unit's event is the RESET, whose unspecified registers take the free values. -/
theorem resetWinsOverEveryEvent : Obligations.ResetWinsOverEveryEvent :=
  fun s hsafe hrst => ⟨Config.afterReset s.freeCount, step_reset hsafe hrst⟩

/-- Settles O10: a step with RESET that answers a state has made the RESET. -/
theorem powerOnIsTheStateAfterReset : Obligations.PowerOnIsTheStateAfterReset := by
  refine ⟨rfl, rfl, rfl, fun s t hrst h => ?_⟩
  obtain rfl := Host.Outcome.next.inj ((step_reset (readsSafe_of_step h) hrst).symm.trans h)
  exact ⟨rfl, rfl, rfl⟩

/-- Settles O49: at power-on the unit is idle and not done, and R0 and R1 hold no value. -/
theorem protocolInvAtReset : Obligations.ProtocolInvAtReset where
  inFlight hb := absurd hb (by decide)
  doneHolds hd := absurd hd (by decide)
  noResult _ := ⟨rfl, rfl⟩
  illopIff := by decide

/-- Settles O51: a unit that is idle and not done has no progress and no result to show. -/
theorem datapathInvAtReset : Obligations.DatapathInvAtReset where
  protocol := protocolInvAtReset
  progress hb := absurd hb (by decide)
  doneResult hd := absurd hd (by decide)

/-! ### The request a step works on (R182, R194, R196) -/

/-- Settles O7: after the host's side a step is `exec` of the request in the latch or of the one offered, if there is one. -/
theorem stepRunsDecodedInstruction : Obligations.StepRunsDecodedInstruction := by
  intro s hsafe hrst
  refine ⟨fun i hb _ => ?_, fun r i hidle hreq hi => ?_, fun hidle hreq => step_hold hsafe hrst hidle hreq⟩
  · exact (step_busy hsafe hrst hb).trans (exec_busy (s := s.takeInputs) hb i).symm
  · obtain rfl : decode r.word = i := hi
    exact (step_offer hsafe hrst hidle hreq).trans (exec_idle (s := s.takeInputs) hidle _).symm

/-- A request word is not cut by the 72 bits of its nine bytes (log 10). -/
theorem withFetchWord_toNat (s : State) (w : BitVec 67) : s.withFetchWord 72 w.toNat = s.offerWord w := by
  have hfits : w.toNat % 2 ^ 72 = w.toNat := Nat.mod_eq_of_lt (by omega)
  rw [State.withFetchWord, hfits, BitVec.ofNat_toNat, BitVec.setWidth_eq]

/-- The host's side of the step that offers a word: there is nothing to read. -/
theorem takeInputs_offerWord (s : State) (w : BitVec 67) :
    (s.offerWord w).takeInputs = { s with busy := false, inputs := s.inputs.tail } := by
  simp [State.takeInputs, State.offerWord, State.ports, State.readValues, HostStep.offer]

/-- The step that is offered a word runs the request it decodes to (R194, log 13). -/
theorem step_offerWord (s : State) (w : BitVec 67) :
    step (s.offerWord w) = exec (decode w) { s with busy := false, inputs := s.inputs.tail } := by
  have hword : (Request.ofWord w).word = w := fields_append w
  rw [step_offer (s := s.offerWord w) rfl rfl rfl rfl, hword, takeInputs_offerWord, exec_idle rfl]

/-- Settles O8: the placed word decodes to the request. -/
theorem placedWordRunsNext : Obligations.PlacedWordRunsNext := by
  intro i s
  rw [withFetchWord_toNat, step_offerWord, decode_encode]

/-! ### The acceptance (R194, R195) -/

/-- Settles O15: each operation's load on top of what every acceptance writes. -/
theorem acceptanceState : Obligations.AcceptanceState := by
  intro s a b hidle
  exact ⟨exec_idle hidle (.clz a b), exec_idle hidle (.divmod a b), exec_idle hidle (.mul32 a b),
    exec_idle hidle (.mulw a b), exec_idle hidle (.rsqrt a b), exec_idle hidle (.op5 a b), exec_idle hidle (.op6 a b),
    exec_idle hidle (.op7 a b)⟩

/-- The decoded request has the fields of the offered one (R70). -/
theorem decode_word (r : Request) :
    (decode r.word).op.code = r.op ∧ (decode r.word).a = r.a ∧ (decode r.word).b = r.b := by
  rw [Request.word, decode, make_op, make_a, make_b, code_ofCode, reqOp_append, reqA_append, reqB_append]
  exact ⟨rfl, rfl, rfl⟩

/-- The state whose host offers nothing at the coming step. -/
def State.withoutOffer (s : State) : State := { s with inputs := { s.ports with req := none } :: s.inputs.tail }

/-- What the host offers is no part of its side of a step. -/
theorem takeInputs_withoutOffer (s : State) : s.withoutOffer.takeInputs = s.takeInputs := rfl

theorem withoutOffer_eq {h : HostStep} {rest : List HostStep} (hin : s.inputs = h :: rest) :
    s.withoutOffer = { s with inputs := { h with req := none } :: rest } := by
  rw [State.withoutOffer, State.ports, hin]
  rfl

/-- Settles O16: an idle unit accepts the offer, and neither a micro-step nor a RESET looks at it. -/
theorem offerAcceptedExactlyWhenIdle : Obligations.OfferAcceptedExactlyWhenIdle := by
  intro s h rest r hin hsafe hreq
  have hports : s.ports = h := by rw [State.ports, hin]; rfl
  rw [← withoutOffer_eq hin, ← hports]
  rw [← hports] at hreq
  refine ⟨rfl, fun hrst hidle => ?_, fun hrst hb => ?_, fun hrst => ?_⟩
  · obtain ⟨hf, hop, ha, hb, hcnt, -⟩ := accepted_spec (decode r.word) s.takeInputs
    obtain ⟨hop', ha', hb'⟩ := decode_word r
    exact ⟨_, step_offer hsafe hrst hidle hreq, hop.trans hop', ha.trans ha', hb.trans hb', hcnt, hf⟩
  · obtain ⟨hl, hcnt⟩ := microstep_latch s.takeInputs
    exact ⟨_, step_busy hsafe hrst hb, hl.op, hl.a, hl.b, hcnt, step_busy (s := s.withoutOffer) hsafe hrst hb⟩
  · exact ⟨_, step_reset hsafe hrst, rfl, step_reset (s := s.withoutOffer) hsafe hrst⟩

/-! ### Host reads (R24, R200) -/

/-- R0 and R1 are the registers that may hold no value (R24). -/
theorem readReg_eq_none_iff (s : State) (r : HostReg) :
    s.readReg r = none ↔ (r = .r0 ∧ s.r0 = none) ∨ (r = .r1 ∧ s.r1 = none) := by
  cases r <;> simp [State.readReg]

theorem noValueRead_eq_some {rs : List HostReg} {r : HostReg} (h : s.noValueRead rs = some r) :
    r ∈ rs ∧ s.readReg r = none :=
  ⟨List.mem_of_find?_eq_some h, Option.isNone_iff_eq_none.1 (List.find?_some (p := fun r => (s.readReg r).isNone) h)⟩

theorem noValueRead_eq_none_iff {rs : List HostReg} :
    s.noValueRead rs = none ↔ ∀ r ∈ rs, ∃ x, s.readReg r = some x := by
  simp [State.noValueRead, Option.ne_none_iff_exists']

/-- A step faults on the first register read that holds no value, and on nothing else. -/
theorem step_eq_fault_iff {f : Fault} :
    step s = .fault f ↔ ∃ r, s.noValueRead s.ports.reads = some r ∧ f = .readNoValue r := by
  cases hr : s.noValueRead s.ports.reads with
  | none => simp [step_eq_unitEvent hr]
  | some r =>
    have hstep : step s = .fault (.readNoValue r) := by rw [step, hr]
    simp [hstep, eq_comm]

/-- A step faults exactly when some register read holds no value. -/
theorem step_faults_iff : (∃ f, step s = .fault f) ↔ ∃ r ∈ s.ports.reads, s.readReg r = none := by
  constructor
  · rintro ⟨f, hf⟩
    obtain ⟨r, hr, -⟩ := step_eq_fault_iff.1 hf
    exact ⟨r, noValueRead_eq_some hr⟩
  · rintro ⟨r, hmem, hr⟩
    cases hread : s.noValueRead s.ports.reads with
    | some r' => exact ⟨_, step_eq_fault_iff.2 ⟨r', hread, rfl⟩⟩
    | none =>
      obtain ⟨x, hx⟩ := noValueRead_eq_none_iff.1 hread r hmem
      exact absurd hr (by simp [hx])

/-- Reads that all find values give the host one value each, in order. -/
theorem readValues_map_fst {rs : List HostReg} (h : ∀ r ∈ rs, ∃ x, s.readReg r = some x) :
    (s.readValues rs).map Prod.fst = rs := by
  induction rs with
  | nil => rfl
  | cons r rs ih =>
    obtain ⟨⟨x, hx⟩, hrs⟩ := List.forall_mem_cons.1 h
    rw [State.readValues, List.filterMap_cons, hx]
    exact congrArg (r :: ·) (ih hrs)

theorem readReg_of_mem_readValues {rs : List HostReg} {r : HostReg} {x : Word} (h : (r, x) ∈ s.readValues rs) :
    s.readReg r = some x := by
  simp only [State.readValues, List.mem_filterMap, Option.map_eq_some_iff, Prod.mk.injEq] at h
  obtain ⟨_, -, _, hx, rfl, rfl⟩ := h
  exact hx

/-- No event of the unit writes what the host has observed (R38). -/
theorem unitEvent_observed (p : HostStep) (s : State) : (s.unitEvent p).observed = s.observed := by
  have hkeep : s.unitEvent p = (s.unitEvent p).withObserved s.observed := unitEvent_withObserved s.observed s p
  exact (congrArg State.observed hkeep :)

/-- Settles O12: the reads come before the unit's event, which writes nothing the host has observed. -/
theorem hostReadsSeeTheStateBefore : Obligations.HostReadsSeeTheStateBefore := by
  intro s
  refine ⟨?_, fun r h => ?_, fun t h => ?_⟩
  · rw [step_faults_iff]
    simp [readReg_eq_none_iff, and_or_left, exists_or]
  · obtain ⟨_, hr, hf⟩ := step_eq_fault_iff.1 h
    obtain rfl := Fault.readNoValue.inj hf
    exact noValueRead_eq_some hr
  · obtain ⟨hnone, -⟩ := step_cases h
    obtain rfl := Host.Outcome.next.inj ((step_eq_unitEvent hnone).symm.trans h)
    refine ⟨s.readValues s.ports.reads, unitEvent_observed _ _, readValues_map_fst (noValueRead_eq_none_iff.1 hnone),
      fun r x hx => ?_⟩
    have hval := readReg_of_mem_readValues hx
    refine ⟨?_, ?_, ?_⟩ <;> rintro rfl
    · exact hval
    · exact hval
    · exact (Option.some.inj hval).symm

end Sys2Proof.Machine
end

section
/-!
PROOFS. 70_reset_and_hazards.md R196 to R199 and R202: micro-steps up to the completion, and the results after it.
-/
namespace Sys2Proof.Machine

variable {s : State} {k : Nat} {x0 x1 : Word} {ill : Bool}

/-! ### A micro-step (R196, R197) -/

theorem reserved_ofCode (c : BitVec 3) : (Op.ofCode c).reserved = decide (c = 5 ∨ c = 6 ∨ c = 7) := by
  revert c; decide

/-- Settles O17: a busy unit's event is a micro-step, whichever request is offered. -/
theorem microstepCountsAndCompletes : Obligations.MicrostepCountsAndCompletes := by
  intro i s hb
  obtain ⟨-, hcnt⟩ := microstep_latch s
  have hc := datapath_control s
  refine ⟨s.microstep, exec_busy hb i, hcnt, ?_⟩
  obtain ⟨hl, hm⟩ | ⟨hl, hm⟩ := microstep_cases s <;> rw [hm]
  · refine ⟨fun hne => absurd hl hne, fun _ => ⟨rfl, rfl, rfl, rfl, ?_⟩⟩
    rw [State.complete_illop, State.countStep_op, hc.op, reserved_ofCode]
  · exact ⟨fun _ => ⟨hc.r0, hc.r1, hc.busy, hc.done, hc.illop⟩, fun he => absurd he hl⟩

/-! ### From the acceptance to the completion (R199, R202) -/

/-- Settles O46: the table of R199, and the completion of a request that any idle unit accepts. -/
theorem everyRequestTakesExactlyLat : Obligations.EveryRequestTakesExactlyLat :=
  ⟨⟨rfl, rfl, rfl, rfl, rfl, rfl, rfl, rfl⟩, fun _ i hidle => acceptedAndCompletes_of_idle hidle i⟩

/-- A request with at most `k` micro-steps to go is done after at most `k` steps of a polite host. -/
theorem ProtocolInv.runSteps_done (h : ProtocolInv s) (hb : s.busy = true) (hk : lat (Op.ofCode s.op) ≤ s.cnt.toNat + k)
    (hu : s.undisturbed k = true) : ∃ j ≤ k, ∃ t, runSteps j s = .next t ∧ t.busy = false ∧ t.done = true := by
  induction k generalizing s with
  | zero =>
    obtain ⟨hlt, -⟩ := h.inFlight hb
    exact absurd hlt (not_lt.2 hk)
  | succ k ih =>
    obtain ⟨hlt, -⟩ := h.inFlight hb
    rw [undisturbed_succ, Bool.and_eq_true] at hu
    obtain ⟨hpolite, hrest⟩ := hu
    have hrun := runSteps_succ_of_step (step_busy_of_polite hb hpolite)
    have hnext := microstep_protocolInv (s := s.takeInputs) hb h.takeInputs
    by_cases hlast : (s.cnt + 1).toNat = lat (Op.ofCode s.op)
    · have hdone := microstep_done (s := s.takeInputs) hlast
      obtain ⟨hidle, -⟩ := hnext.doneHolds hdone
      exact ⟨1, by omega, _, hrun 0, hidle, hdone⟩
    · obtain ⟨hl, hcnt⟩ := microstep_latch s.takeInputs
      have hk' : lat (Op.ofCode s.takeInputs.microstep.op) ≤ s.takeInputs.microstep.cnt.toNat + k := by
        rw [hl.op, hcnt, State.takeInputs_op, State.takeInputs_cnt, cnt_succ_toNat hlt]
        omega
      obtain ⟨j, hj, t, ht, hdone⟩ :=
        ih hnext (microstep_busy (s := s.takeInputs) hb hlast) hk' ((undisturbed_congr hl.inputs k).trans hrest)
      exact ⟨j + 1, by omega, t, (hrun j).trans ht, hdone⟩

/-- Settles O55: no operation has more than 32 micro-steps to go. -/
theorem busyUnitCompletesWithin32 : Obligations.BusyUnitCompletesWithin32 := by
  intro s h hb hu
  exact h.runSteps_done hb ((lat_le _).trans (Nat.le_add_left ..)) hu

/-! ### After the completion (R198) -/

/-- After a completion every register the host may read holds a value (R24). -/
theorem Completed.readsSafe (h : Completed x0 x1 ill s) : s.readsSafe = true := by
  refine Option.isNone_iff_eq_none.2 (noValueRead_eq_none_iff.2 fun r _ => ?_)
  cases r with
  | r0 => exact ⟨x0, h.r0⟩
  | r1 => exact ⟨x1, h.r1⟩
  | status => exact ⟨s.statusWord, rfl⟩

/-- What the host does at each of the coming `k + 1` steps, it does at the coming one and at the `k` that follow; once its list is
used up it does nothing (log 1). -/
theorem forall_take_inputs_succ {P : HostStep → Prop} (hquiet : P .quiet) (h : ∀ p ∈ s.inputs.take (k + 1), P p) :
    P s.ports ∧ ∀ p ∈ s.takeInputs.inputs.take k, P p := by
  rw [State.ports, State.takeInputs_inputs]
  cases hin : s.inputs with
  | nil => exact ⟨hquiet, by simp⟩
  | cons p rest => simpa [hin] using h

/-- Steps without RESET and without an offer keep a completed request completed. -/
theorem Completed.persists (h : Completed x0 x1 ill s) (hin : ∀ p ∈ s.inputs.take k, p.rst = false ∧ p.req = none) :
    ∃ t, runSteps k s = .next t ∧ Completed x0 x1 ill t := by
  induction k generalizing s with
  | zero => exact ⟨s, rfl, h⟩
  | succ k ih =>
    obtain ⟨⟨hrst, hreq⟩, hrest⟩ := forall_take_inputs_succ (P := fun p => p.rst = false ∧ p.req = none) ⟨rfl, rfl⟩ hin
    rw [runSteps_succ_of_step (step_hold h.readsSafe hrst h.busy hreq)]
    exact ih (s := s.takeInputs) ⟨h.r0, h.r1, h.busy, h.done, h.illop⟩ hrest

/-- Settles O54: the request stays completed with the same results, which shows the host the same STATUS. -/
theorem resultsPersist : Obligations.ResultsPersist := by
  intro k s x0 x1 ill h hin
  obtain ⟨t, hrun, ht⟩ := h.persists hin
  obtain ⟨-, -, hstatus⟩ := ht.agree h
  exact ⟨t, hrun, ht.r0, ht.r1, hstatus⟩

end Sys2Proof.Machine
end
